-- ==== Sys2Proof/Word.lean ====
section
/-! DEFINITION. The widths the spec gives its values (00_scope.md R3, R5): every value is unsigned. -/

namespace Sys2Proof

/-- A byte: a general register, a timer, a memory byte (00_scope.md R5). -/
abbrev Byte := BitVec 8

/-- A 16-bit value: PC, I, a stack entry, an instruction word (10_state.md R12 to R14, 30_encoding.md R50). -/
abbrev Word := BitVec 16

/-- A register index, the 4-bit field X or Y: 0 is V0, 15 is VF (10_state.md R10). -/
abbrev Reg := Fin 16

/-- The register VF, which doubles as the only flag (10_state.md R11). -/
abbrev VF : Reg := 15

/-- `zext_16` of a byte; every widening in this machine is a zero-extension (00_scope.md R7). -/
abbrev Byte.zext (b : Byte) : Word := b.setWidth 16

end Sys2Proof
end

