-- ==== Sys2Proof/Config.lean ====
section
/-! DEFINITION. The parameters of 00_scope.md R4 that change what a step computes, and the free values: the inputs
`keys` and `rnd` that the host gives a STEP and no law constrains (10_state.md R22). -/

namespace Sys2Proof

/-- What a family that sub-dispatches looks at: the low byte or the low nibble (30_encoding.md R54). -/
inductive Selector where
  | lowByte
  | lowNibble
  deriving DecidableEq, Repr

/-- The parameters `SUB0`, `SUBE` and `GLYPHS` of 00_scope.md R4. They are fixed for one machine; `State` carries
them so that a statement about every state is a statement about every value of each (log entry 4, DESIGN CHOICE, safe). -/
structure Config where
  /-- `SUB0`: the selector of family 0. -/
  sub0 : Selector
  /-- `SUBE`: the selector of family E. -/
  subE : Selector
  /-- `GLYPHS`: the 80 bytes reset writes to memory [0, 80). -/
  glyphs : Vector Byte 80
  deriving DecidableEq, Repr

/-- FREE VALUE: the keypad levels that STEP number `n` samples when no STEP transaction names them: bit k is key k
(60_exceptions.md R153: "a free input of each STEP"). Log entry 2, safe. -/
opaque Config.keysAt : Nat → BitVec 16

/-- FREE VALUE: the random byte that STEP number `n` samples when no STEP transaction names it (46_family_9_A_B_C.md
R113: "a free 8-bit input of the step"). Log entry 2, safe. -/
opaque Config.rndAt : Nat → Byte

end Sys2Proof
end

