-- ==== Sys2Proof/Machine/Parameters.lean ====
section
/-! DEFINITION. The default values of the parameters (00_scope.md R4). -/

namespace Sys2Proof

/-- `SUB0`'s default (00_scope.md R4, D8). Log entry 5, DESIGN CHOICE, unsafe for the 480 words of U1. -/
def Config.defaultSub0 : Selector := .lowByte

/-- `SUBE`'s default (00_scope.md R4, D8). Log entry 5, DESIGN CHOICE, unsafe for the 480 words of U2. -/
def Config.defaultSubE : Selector := .lowByte

/-- `GLYPHS`' default, the table of 20_memory.md R33, glyph k in bytes 5k to 5k + 4. The spec marks it as general
knowledge: log entry 6, PRESUMED, unsafe for claims about glyph shapes. -/
def Config.defaultGlyphs : Vector Byte 80 :=
  #v[0xF0, 0x90, 0x90, 0x90, 0xF0, 0x20, 0x60, 0x20, 0x20, 0x70,
     0xF0, 0x10, 0xF0, 0x80, 0xF0, 0xF0, 0x10, 0xF0, 0x10, 0xF0,
     0x90, 0x90, 0xF0, 0x10, 0x10, 0xF0, 0x80, 0xF0, 0x10, 0xF0,
     0xF0, 0x80, 0xF0, 0x90, 0xF0, 0xF0, 0x10, 0x20, 0x40, 0x40,
     0xF0, 0x90, 0xF0, 0x90, 0xF0, 0xF0, 0x90, 0xF0, 0x10, 0xF0,
     0xF0, 0x90, 0xF0, 0x90, 0x90, 0xE0, 0x90, 0xE0, 0x90, 0xE0,
     0xF0, 0x80, 0x80, 0x80, 0xF0, 0xE0, 0x90, 0x90, 0x90, 0xE0,
     0xF0, 0x80, 0xF0, 0x80, 0xF0, 0xF0, 0x80, 0xF0, 0x80, 0x80]

/-- The machine with every parameter at its default. -/
def Config.default : Config where
  sub0 := Config.defaultSub0
  subE := Config.defaultSubE
  glyphs := Config.defaultGlyphs

end Sys2Proof
end

