-- ==== Sys2Proof/Machine/SubDispatch.lean ====
section
/-! DEFINITION. The byte order of an instruction word (20_memory.md R35), its fields (30_encoding.md R52) and the key that families 0 and E sub-dispatch
on (R54), with the words that select no instruction (R55). -/

namespace Sys2Proof

/-- The word of two bytes: the byte at the lower address is the high byte (20_memory.md R35). -/
def wordOfBytes (hi lo : Byte) : Word := hi ++ lo

/-- The two bytes of a word as memory holds them, the high byte first (20_memory.md R35). -/
def bytesOfWord (op : Word) : List Byte := [op.extractLsb' 8 8, op.extractLsb' 0 8]

/-- op[15:12], the family (30_encoding.md R53). -/
def fieldFamily (op : Word) : BitVec 4 := op.extractLsb' 12 4

/-- X = op[11:8] (30_encoding.md R52). -/
def fieldX (op : Word) : Reg := (op.extractLsb' 8 4).toFin

/-- Y = op[7:4] (30_encoding.md R52). -/
def fieldY (op : Word) : Reg := (op.extractLsb' 4 4).toFin

/-- N = op[3:0] (30_encoding.md R52). -/
def fieldN (op : Word) : BitVec 4 := op.extractLsb' 0 4

/-- NN = op[7:0] (30_encoding.md R52). -/
def fieldNN (op : Word) : Byte := op.extractLsb' 0 8

/-- NNN = op[11:0] (30_encoding.md R52). -/
def fieldNNN (op : Word) : BitVec 12 := op.extractLsb' 0 12

/-- Does the word's key equal that of the pattern whose low byte is `nn`? Under LowByte the key is op[7:0], under
LowNibble op[3:0] and only the pattern's low nibble counts (30_encoding.md R54). -/
def Selector.selects (sel : Selector) (op : Word) (nn : Byte) : Bool :=
  match sel with
  | .lowByte => fieldNN op == nn
  | .lowNibble => fieldN op == nn.extractLsb' 0 4

/-- The nine low bytes that select an instruction of family F (30_encoding.md R54). -/
def familyFKeys : List Byte := [0x07, 0x0A, 0x15, 0x18, 0x1E, 0x29, 0x33, 0x55, 0x65]

/-- The nine low nibbles that select an instruction of family 8 (30_encoding.md R54). -/
def family8Keys : List (BitVec 4) := [0x0, 0x1, 0x2, 0x3, 0x4, 0x5, 0x6, 0x7, 0xE]

/-- Does the word select no instruction, so that it is a NOP (30_encoding.md R55)? Only families 0, 8, E and F have
such words. -/
def selectsNothing (c : Config) (op : Word) : Bool :=
  if fieldFamily op = 0x0 then !(c.sub0.selects op 0xE0) && !(c.sub0.selects op 0xEE)
  else if fieldFamily op = 0x8 then !(family8Keys.contains (fieldN op))
  else if fieldFamily op = 0xE then !(c.subE.selects op 0x9E) && !(c.subE.selects op 0xA1)
  else if fieldFamily op = 0xF then !(familyFKeys.contains (fieldNN op))
  else false

end Sys2Proof
end

