-- ==== Sys2Proof/Syntax.lean ====
section
/-! DEFINITION. The instruction set: the 34 instructions of 30_encoding.md R56 and NOP (R55), under the constructor
names of rule R59 (R60 asks a model for those names, since the mnemonics SE, SNE, LD, ADD and JP each name several). -/

namespace Sys2Proof

/-- One constructor per instruction of spec/opcode_table.json; the pattern in a docstring is the source's name. -/
inductive Instr where
  /-- 00E0 -/
  | CLS
  /-- 00EE -/
  | RET
  /-- 1NNN -/
  | JP (nnn : BitVec 12)
  /-- 2NNN -/
  | CALL (nnn : BitVec 12)
  /-- 3XNN -/
  | SE_imm (x : Reg) (nn : Byte)
  /-- 4XNN -/
  | SNE_imm (x : Reg) (nn : Byte)
  /-- 5XY0 -/
  | SE_reg (x y : Reg)
  /-- 6XNN -/
  | LD_imm (x : Reg) (nn : Byte)
  /-- 7XNN -/
  | ADD_imm (x : Reg) (nn : Byte)
  /-- 8XY0 -/
  | LD_reg (x y : Reg)
  /-- 8XY1 -/
  | OR (x y : Reg)
  /-- 8XY2 -/
  | AND (x y : Reg)
  /-- 8XY3 -/
  | XOR (x y : Reg)
  /-- 8XY4 -/
  | ADD_reg (x y : Reg)
  /-- 8XY5 -/
  | SUB (x y : Reg)
  /-- 8XY6; the Y bits are not examined -/
  | SHR (x : Reg)
  /-- 8XY7 -/
  | SUBN (x y : Reg)
  /-- 8XYE; the Y bits are not examined -/
  | SHL (x : Reg)
  /-- 9XY0 -/
  | SNE_reg (x y : Reg)
  /-- ANNN -/
  | LD_I (nnn : BitVec 12)
  /-- BNNN -/
  | JP_V0 (nnn : BitVec 12)
  /-- CXNN -/
  | RND (x : Reg) (nn : Byte)
  /-- DXYN -/
  | DRW (x y : Reg) (n : BitVec 4)
  /-- EX9E -/
  | SKP (x : Reg)
  /-- EXA1 -/
  | SKNP (x : Reg)
  /-- FX07 -/
  | LD_Vx_DT (x : Reg)
  /-- FX0A -/
  | LD_Vx_K (x : Reg)
  /-- FX15 -/
  | LD_DT_Vx (x : Reg)
  /-- FX18 -/
  | LD_ST_Vx (x : Reg)
  /-- FX1E -/
  | ADD_I (x : Reg)
  /-- FX29 -/
  | LD_F (x : Reg)
  /-- FX33 -/
  | LD_B (x : Reg)
  /-- FX55 -/
  | LD_mem_Vx (x : Reg)
  /-- FX65 -/
  | LD_Vx_mem (x : Reg)
  /-- A word that selects no instruction (R55). It has no canonical spelling (R61), so the word itself is kept (log
  entry 12, DESIGN CHOICE, safe: no meaning reads it). -/
  | NOP (op : Word)
  deriving DecidableEq, Repr

end Sys2Proof
end

