-- ==== Sys2Proof/WellFormed.lean ====
section
/-! DEFINITION. The check of an instruction as a term. The operand types already hold every field to its width (R52),
so the one thing that can be ill-formed is a NOP whose word does select an instruction (30_encoding.md R55). -/

namespace Sys2Proof

/-- Is the term one the decoder can give, under the parameters `c`? -/
def Instr.wellFormed (c : Config) : Instr → Bool
  | .CLS => true
  | .RET => true
  | .JP _ => true
  | .CALL _ => true
  | .SE_imm _ _ => true
  | .SNE_imm _ _ => true
  | .SE_reg _ _ => true
  | .LD_imm _ _ => true
  | .ADD_imm _ _ => true
  | .LD_reg _ _ => true
  | .OR _ _ => true
  | .AND _ _ => true
  | .XOR _ _ => true
  | .ADD_reg _ _ => true
  | .SUB _ _ => true
  | .SHR _ => true
  | .SUBN _ _ => true
  | .SHL _ => true
  | .SNE_reg _ _ => true
  | .LD_I _ => true
  | .JP_V0 _ => true
  | .RND _ _ => true
  | .DRW _ _ _ => true
  | .SKP _ => true
  | .SKNP _ => true
  | .LD_Vx_DT _ => true
  | .LD_Vx_K _ => true
  | .LD_DT_Vx _ => true
  | .LD_ST_Vx _ => true
  | .ADD_I _ => true
  | .LD_F _ => true
  | .LD_B _ => true
  | .LD_mem_Vx _ => true
  | .LD_Vx_mem _ => true
  | .NOP op => selectsNothing c op

end Sys2Proof
end

