-- ==== Sys2Proof/Decode.lean ====
section
/-! DEFINITION. The decoder (30_encoding.md R59), the encoder (R51, R56), the class of every word (R58) and the
host's view of one table word. -/

namespace Sys2Proof

/-- Family 8 selects on the low nibble (30_encoding.md R54, R59). -/
def decodeFamily8 (op : Word) : Instr :=
  match fieldN op with
  | 0x0 => .LD_reg (fieldX op) (fieldY op)
  | 0x1 => .OR (fieldX op) (fieldY op)
  | 0x2 => .AND (fieldX op) (fieldY op)
  | 0x3 => .XOR (fieldX op) (fieldY op)
  | 0x4 => .ADD_reg (fieldX op) (fieldY op)
  | 0x5 => .SUB (fieldX op) (fieldY op)
  | 0x6 => .SHR (fieldX op)
  | 0x7 => .SUBN (fieldX op) (fieldY op)
  | 0xE => .SHL (fieldX op)
  | _ => .NOP op

/-- Family F selects on the low byte (30_encoding.md R54, R59). -/
def decodeFamilyF (op : Word) : Instr :=
  match fieldNN op with
  | 0x07 => .LD_Vx_DT (fieldX op)
  | 0x0A => .LD_Vx_K (fieldX op)
  | 0x15 => .LD_DT_Vx (fieldX op)
  | 0x18 => .LD_ST_Vx (fieldX op)
  | 0x1E => .ADD_I (fieldX op)
  | 0x29 => .LD_F (fieldX op)
  | 0x33 => .LD_B (fieldX op)
  | 0x55 => .LD_mem_Vx (fieldX op)
  | 0x65 => .LD_Vx_mem (fieldX op)
  | _ => .NOP op

/-- The decode function of 30_encoding.md R59: total, every word gives an instruction or NOP. -/
def decodeWord (c : Config) (op : Word) : Instr :=
  match fieldFamily op with
  | 0x0 =>
    if c.sub0.selects op 0xE0 then .CLS
    else if c.sub0.selects op 0xEE then .RET
    else .NOP op
  | 0x1 => .JP (fieldNNN op)
  | 0x2 => .CALL (fieldNNN op)
  | 0x3 => .SE_imm (fieldX op) (fieldNN op)
  | 0x4 => .SNE_imm (fieldX op) (fieldNN op)
  | 0x5 => .SE_reg (fieldX op) (fieldY op)
  | 0x6 => .LD_imm (fieldX op) (fieldNN op)
  | 0x7 => .ADD_imm (fieldX op) (fieldNN op)
  | 0x8 => decodeFamily8 op
  | 0x9 => .SNE_reg (fieldX op) (fieldY op)
  | 0xA => .LD_I (fieldNNN op)
  | 0xB => .JP_V0 (fieldNNN op)
  | 0xC => .RND (fieldX op) (fieldNN op)
  | 0xD => .DRW (fieldX op) (fieldY op) (fieldN op)
  | 0xE =>
    if c.subE.selects op 0x9E then .SKP (fieldX op)
    else if c.subE.selects op 0xA1 then .SKNP (fieldX op)
    else .NOP op
  | _ => decodeFamilyF op

/-- The one way a byte string fails to decode: it ends before the two bytes of an instruction (30_encoding.md R50).
No pair of bytes is rejected (R55). -/
inductive DecodeError where
  | truncated
  deriving DecidableEq, Repr

/-- Decode the first instruction of a byte string, big-endian, and give the bytes after it (30_encoding.md R50). -/
def decode (c : Config) : List Byte → Except DecodeError (Instr × List Byte)
  | hi :: lo :: rest => .ok (decodeWord c (wordOfBytes hi lo), rest)
  | _ => .error .truncated

/-- Format A: family, NNN (30_encoding.md R51). -/
def encodeA (family : BitVec 4) (nnn : BitVec 12) : Word := family ++ nnn

/-- Formats XI and XK: family, X, a byte (30_encoding.md R51). -/
def encodeXI (family : BitVec 4) (x : Reg) (nn : Byte) : Word := family ++ BitVec.ofFin (w := 4) x ++ nn

/-- Formats XY and XYN: family, X, Y, a nibble (30_encoding.md R51). -/
def encodeXY (family : BitVec 4) (x y : Reg) (n : BitVec 4) : Word :=
  family ++ BitVec.ofFin (w := 4) x ++ BitVec.ofFin (w := 4) y ++ n

/-- The canonical word of an instruction (30_encoding.md R51, R56). The bits the decoder does not examine are 0 (log
entry 19, DESIGN CHOICE, safe). -/
def encode : Instr → Word
  | .CLS => 0x00E0
  | .RET => 0x00EE
  | .JP nnn => encodeA 0x1 nnn
  | .CALL nnn => encodeA 0x2 nnn
  | .SE_imm x nn => encodeXI 0x3 x nn
  | .SNE_imm x nn => encodeXI 0x4 x nn
  | .SE_reg x y => encodeXY 0x5 x y 0x0
  | .LD_imm x nn => encodeXI 0x6 x nn
  | .ADD_imm x nn => encodeXI 0x7 x nn
  | .LD_reg x y => encodeXY 0x8 x y 0x0
  | .OR x y => encodeXY 0x8 x y 0x1
  | .AND x y => encodeXY 0x8 x y 0x2
  | .XOR x y => encodeXY 0x8 x y 0x3
  | .ADD_reg x y => encodeXY 0x8 x y 0x4
  | .SUB x y => encodeXY 0x8 x y 0x5
  | .SHR x => encodeXY 0x8 x 0 0x6
  | .SUBN x y => encodeXY 0x8 x y 0x7
  | .SHL x => encodeXY 0x8 x 0 0xE
  | .SNE_reg x y => encodeXY 0x9 x y 0x0
  | .LD_I nnn => encodeA 0xA nnn
  | .JP_V0 nnn => encodeA 0xB nnn
  | .RND x nn => encodeXI 0xC x nn
  | .DRW x y n => encodeXY 0xD x y n
  | .SKP x => encodeXI 0xE x 0x9E
  | .SKNP x => encodeXI 0xE x 0xA1
  | .LD_Vx_DT x => encodeXI 0xF x 0x07
  | .LD_Vx_K x => encodeXI 0xF x 0x0A
  | .LD_DT_Vx x => encodeXI 0xF x 0x15
  | .LD_ST_Vx x => encodeXI 0xF x 0x18
  | .ADD_I x => encodeXI 0xF x 0x1E
  | .LD_F x => encodeXI 0xF x 0x29
  | .LD_B x => encodeXI 0xF x 0x33
  | .LD_mem_Vx x => encodeXI 0xF x 0x55
  | .LD_Vx_mem x => encodeXI 0xF x 0x65
  | .NOP op => op

/-- The bytes of an instruction, in address order. -/
def encodeBytes (i : Instr) : List Byte := bytesOfWord (encode i)

/-- The four classes of 30_encoding.md R58. -/
inductive WordClass where
  /-- It matches a pattern of the source's table digit for digit. -/
  | canonical
  /-- Not canonical, but every reading executes it as one named instruction. -/
  | aliasWord
  /-- Every reading makes it a no-op. -/
  | certainNoOp
  /-- A no-op under one value of `SUB0` or `SUBE`, an instruction under the other. -/
  | readingDependent
  deriving DecidableEq, Repr

/-- The class of a word, from the table of 30_encoding.md R58. -/
def classify (op : Word) : WordClass :=
  match fieldFamily op with
  | 0x0 =>
    if op = 0x00E0 ∨ op = 0x00EE then .canonical
    else if fieldNN op = 0xE0 ∨ fieldNN op = 0xEE then .aliasWord
    else if fieldN op = 0x0 ∨ fieldN op = 0xE then .readingDependent
    else .certainNoOp
  | 0x5 => if fieldN op = 0x0 then .canonical else .aliasWord
  | 0x9 => if fieldN op = 0x0 then .canonical else .aliasWord
  | 0x8 => if family8Keys.contains (fieldN op) then .canonical else .certainNoOp
  | 0xE =>
    if fieldNN op = 0x9E ∨ fieldNN op = 0xA1 then .canonical
    else if fieldN op = 0x1 ∨ fieldN op = 0xE then .readingDependent
    else .certainNoOp
  | 0xF => if familyFKeys.contains (fieldNN op) then .canonical else .certainNoOp
  | _ => .canonical

/-- The instruction the decoder, with the parameters at their defaults, reads from the table word `w` of `nbits` bits;
every instruction is one 16-bit word stored high byte first (30_encoding.md R50, 20_memory.md R35). -/
def decodeTableWord (nbits w : Nat) : Option Instr :=
  if nbits ≤ 16 then
    match decode Config.default (bytesOfWord (BitVec.ofNat 16 (w % 2 ^ nbits))) with
    | .ok (i, _) => some i
    | .error _ => none
  else none

end Sys2Proof
end

