-- ==== Sys2Proof/Machine/State.lean ====
section
/-! DEFINITION. The architectural state (10_state.md R10 to R21), the inputs a STEP samples (R22), and the state after
reset (R27). -/

namespace Sys2Proof.Machine

/-- The five fault causes of 60_exceptions.md R140. A STEP that raises one ANSWERS A NEXT STATE, with the cause in the
FAULT latch (R141, 40_step_cycle.md R78); no step ends in `Host.Outcome.fault` (log entry 7). Each replaces behaviour
that the source calls undefined or does not mention (93_implementation_defined.md), so each is safe. -/
inductive Fault where
  /-- Code 1. Raised by the fetch of any STEP when PC > 4094; info is PC. Safe. -/
  | fetchOob
  /-- Code 2. Raised by DXYN, FX33, FX55, FX65 when the last byte address is above 4095; info is I. Safe. -/
  | dataOob
  /-- Code 3. Raised by 2NNN when SP = 16; info is 16. Safe. -/
  | stackOverflow
  /-- Code 4. Raised by 00EE when SP = 0; info is 0. Safe. -/
  | stackUnderflow
  /-- Code 5. Raised by EX9E and EXA1 when VX > 15; info is VX. Safe. -/
  | keyOob
  deriving DecidableEq, Repr

/-- Why a step has no meaning. -/
inductive Refusal where
  /-- Raised by an arm of `exec` whose instruction has no meaning yet (none is left); safe. -/
  | notModelled (mnemonic : String)
  deriving DecidableEq, Repr

/-- What the FAULT latch holds when it is set: (cause, info) (10_state.md R21). -/
structure FaultRecord where
  cause : Fault
  info : Word
  deriving DecidableEq, Repr

/-- The inputs the next STEP samples (10_state.md R22, 60_exceptions.md R155). They are not state of the core: they
stand in `State` because `step` is a function of `State` alone (log entry 1, DESIGN CHOICE, safe). -/
structure Inputs where
  /-- The keypad levels, bit k for key k. -/
  keys : BitVec 16
  /-- The random byte. -/
  rnd : Byte
  /-- The model's own counter of samples, which the free values are applied to (log entry 2). -/
  sample : Nat
  deriving DecidableEq, Repr

/-- Memory as a list of cells: addresses strictly rising, no cell equal to what reset leaves there (20_memory.md R34). -/
abbrev Mem := List Host.Cell

/-- The whole machine. -/
structure State where
  /-- The parameters, constant (00_scope.md R4). -/
  cfg : Config
  /-- V0 to VF (10_state.md R10, R11). -/
  v : Vector Byte 16
  /-- The index register I (10_state.md R12). -/
  i : Word
  /-- The program counter PC (10_state.md R13). -/
  pc : Word
  /-- The call stack STK (10_state.md R14). -/
  stk : Vector Word 16
  /-- The stack pointer SP, 0..16 (10_state.md R15). -/
  sp : Fin 17
  /-- The delay timer DT (10_state.md R16). -/
  dt : Byte
  /-- The sound timer ST (10_state.md R17). -/
  st : Byte
  /-- The framebuffer FB: bit y*64 + x is the cell in column x, row y (10_state.md R18). -/
  fb : BitVec 2048
  /-- The memory MEM (10_state.md R19). -/
  mem : Mem
  /-- The flag LOADED (10_state.md R20). -/
  loaded : Bool
  /-- The latch FAULT (10_state.md R21). -/
  fault : Option FaultRecord
  /-- The inputs (10_state.md R22). -/
  inputs : Inputs
  deriving DecidableEq, Repr

/-- The state after RESET with every parameter at its default (10_state.md R27). The inputs are no state and have no
reset value (R27): the zeros here are log entry 3, DESIGN CHOICE, unsafe. -/
def State.reset : State where
  cfg := Config.default
  v := Vector.replicate 16 0
  i := 0
  pc := 0x200
  stk := Vector.replicate 16 0
  sp := 0
  dt := 0
  st := 0
  fb := 0
  mem := []
  loaded := false
  fault := none
  inputs := { keys := 0, rnd := 0, sample := 0 }

end Sys2Proof.Machine
end

