-- ==== Sys2Proof/Machine/Ops.lean ====
section
/-! DEFINITION. The named operations over memory, registers, stack and latch that every meaning is written over, with
taking a fault (60_exceptions.md R141) and RESET, the only way back from one (R147). -/

namespace Sys2Proof.Machine

/-- The outcome of an instruction or a step. -/
abbrev Result := Host.Outcome State Fault Refusal

/-- Change the next state of an outcome and leave any other outcome alone. -/
def mapNext (f : State → State) : Result → Result
  | .next s => .next (f s)
  | .fault r => .fault r
  | .refused r => .refused r

/-! ### Memory (20_memory.md) -/

/-- What an address no cell is listed for reads as: the contents after RESET (20_memory.md R34). Log entry 9. -/
def Mem.initial (c : Config) (a : Nat) : Byte :=
  if h : a < 80 then c.glyphs[a] else 0

/-- The listed cell at an address, if there is one. -/
def Mem.find : Mem → Nat → Option Byte
  | [], _ => none
  | (k, b) :: m, a => if k = a then some b else Mem.find m a

/-- The byte at an address: the latest one written, or the contents after RESET (20_memory.md R41 (3)). -/
def Mem.read (c : Config) (m : Mem) (a : Nat) : Byte :=
  (Mem.find m a).getD (Mem.initial c a)

/-- List the cell (a, b), in place of any cell listed for `a`. -/
def Mem.put (a : Nat) (b : Byte) : Mem → Mem
  | [] => [(a, b)]
  | (k, w) :: m =>
    if a < k then (a, b) :: (k, w) :: m
    else if a = k then (a, b) :: m
    else (k, w) :: Mem.put a b m

/-- List no cell for the address. -/
def Mem.drop (a : Nat) : Mem → Mem
  | [] => []
  | (k, w) :: m => if k = a then Mem.drop a m else (k, w) :: Mem.drop a m

/-- Write one byte, keeping the canonical form: a cell equal to the contents after RESET is not listed. -/
def Mem.write (c : Config) (m : Mem) (a : Nat) (b : Byte) : Mem :=
  if b = Mem.initial c a then Mem.drop a m else Mem.put a b m

/-- Write bytes at successive addresses, in order (20_memory.md R34, R35, R41 (1)). -/
def Mem.writeList (c : Config) (m : Mem) (a : Nat) : List Byte → Mem
  | [] => m
  | b :: bs => Mem.writeList c (Mem.write c m a b) (a + 1) bs

/-- Read `n` bytes at successive addresses. -/
def Mem.readList (c : Config) (m : Mem) (a : Nat) : Nat → List Byte
  | 0 => []
  | n + 1 => Mem.read c m a :: Mem.readList c m (a + 1) n

/-- Do the addresses rise strictly, each above `lo`, and does every cell exist and differ from the contents after RESET? -/
def Mem.wfFrom (c : Config) (lo : Nat) : Mem → Bool
  | [] => true
  | (k, b) :: m => decide (lo ≤ k) && decide (k < 4096) && decide (b ≠ Mem.initial c k) && Mem.wfFrom c (k + 1) m

/-- The canonical form of memory: equal memories are equal lists. -/
def Mem.wf (c : Config) (m : Mem) : Bool := Mem.wfFrom c 0 m

/-- The byte the machine holds at an address. -/
def State.byteAt (s : State) (a : Nat) : Byte := Mem.read s.cfg s.mem a

/-- Store bytes from an address on; the caller has checked the range (20_memory.md R40). -/
def State.storeBytes (s : State) (a : Nat) (bs : List Byte) : State :=
  { s with mem := Mem.writeList s.cfg s.mem a bs }

/-- Load bytes from an address on; the caller has checked the range (20_memory.md R40). -/
def State.loadBytes (s : State) (a n : Nat) : List Byte := Mem.readList s.cfg s.mem a n

/-! ### Registers (10_state.md R10 to R13, R16, R17) -/

/-- `V[x]`. -/
def State.reg (s : State) (x : Reg) : Byte := s.v[x]

/-- `V[x] <- b`. -/
def State.setReg (s : State) (x : Reg) (b : Byte) : State := { s with v := s.v.set x b }

/-- `V[k] <- b_k` for k = 0, 1, … in order; `first` is the index of the first byte (49_family_F_misc.md R133). -/
def State.setRegs (s : State) (first : Nat) : List Byte → State
  | [] => s
  | b :: bs => State.setRegs (s.setReg (Fin.ofNat 16 first) b) (first + 1) bs

/-- `I <- w`. -/
def State.setI (s : State) (w : Word) : State := { s with i := w }

/-- `pc <- w`. -/
def State.setPc (s : State) (w : Word) : State := { s with pc := w }

/-- `DT <- b`. -/
def State.setDt (s : State) (b : Byte) : State := { s with dt := b }

/-- `ST <- b`. -/
def State.setSt (s : State) (b : Byte) : State := { s with st := b }

/-- Replace the framebuffer. -/
def State.setFb (s : State) (fb : BitVec 2048) : State := { s with fb := fb }

/-- The advance of 40_step_cycle.md R72: pc <- (pc + 2) mod 65536. -/
def State.advance (s : State) : State := s.setPc (s.pc + 2)

/-- `pc <- pc - 2`: from inside an instruction, back to its own address (49_family_F_misc.md R126). -/
def State.rewind (s : State) : State := s.setPc (s.pc - 2)

/-- `if cond then pc <- pc + 2`: skip the next instruction (40_step_cycle.md R76). -/
def State.skipIf (s : State) (cond : Bool) : State := if cond then s.setPc (s.pc + 2) else s

/-! ### The call stack (10_state.md R14, R15) -/

/-- Push: STK[SP] <- w, then SP <- SP + 1; none on a full stack (42_family_1_2_jump_call.md R86). -/
def State.push (s : State) (w : Word) : Option State :=
  if h : s.sp.val < 16 then
    some { s with stk := s.stk.set s.sp.val w h, sp := ⟨s.sp.val + 1, by omega⟩ }
  else none

/-- Pop: SP <- SP - 1, then read STK[SP]; none on an empty stack. The entry keeps its contents
(41_family_0_clear_return.md R81). -/
def State.pop (s : State) : Option (Word × State) :=
  if h : 0 < s.sp.val then
    some (s.stk[s.sp.val - 1]'(by omega), { s with sp := ⟨s.sp.val - 1, by omega⟩ })
  else none

/-! ### Faults (60_exceptions.md R140, R141) -/

/-- The code of a cause (60_exceptions.md R140). -/
def Fault.code : Fault → BitVec 3
  | .fetchOob => 1
  | .dataOob => 2
  | .stackOverflow => 3
  | .stackUnderflow => 4
  | .keyOob => 5

/-- Fault entry: FAULT <- (cause, info) and nothing else changes (60_exceptions.md R141). -/
def State.latchFault (s : State) (cause : Fault) (info : Word) : State :=
  { s with fault := some { cause := cause, info := info } }

/-- `raise Fault(cause, info)` inside an instruction: pc is put back to the instruction's own address and the latch is
set; every check stands before every write, so nothing else has changed (40_step_cycle.md R74). Log entry 8. -/
def State.raiseFault (s : State) (cause : Fault) (info : Word) : State :=
  s.rewind.latchFault cause info

/-- Is a STEP ignored: LOADED false or FAULT set (40_step_cycle.md R70)? -/
def State.gated (s : State) : Bool := !s.loaded || s.fault.isSome

/-! ### Fetch and inputs (40_step_cycle.md R71, R77) -/

/-- The word at pc, the byte at pc the high one; none when pc > 4094 (40_step_cycle.md R71). -/
def State.fetch (s : State) : Option Word :=
  if s.pc.toNat ≤ 4094 then some (wordOfBytes (s.byteAt s.pc.toNat) (s.byteAt (s.pc.toNat + 1)))
  else none

/-- After a STEP was served the next one samples inputs of its own, about which nothing is known (10_state.md R22,
46_family_9_A_B_C.md R113). Log entry 2. -/
def Inputs.refresh (n : Inputs) : Inputs :=
  { keys := Config.keysAt n.sample, rnd := Config.rndAt n.sample, sample := n.sample + 1 }

/-- The state with fresh inputs for the next STEP. -/
def State.nextInputs (s : State) : State := { s with inputs := s.inputs.refresh }

/-- The state with the host driving `keys` and `rnd` (60_exceptions.md R155). -/
def State.withInputs (s : State) (keys : BitVec 16) (rnd : Byte) : State :=
  { s with inputs := { s.inputs with keys := keys, rnd := rnd } }

/-! ### The transactions RESET, LOAD and TICK (70_reset_and_hazards.md, 60_exceptions.md) -/

/-- RESET: every piece of state takes its reset value, whatever it held; the parameters and the inputs are no state and
stay (70_reset_and_hazards.md R170, R171). The only return from a fault (60_exceptions.md R147). Log entry 13. -/
def State.applyReset (s : State) : State := { State.reset with cfg := s.cfg, inputs := s.inputs }

/-- The largest image LOAD takes, 4096 - 0x200 bytes (00_scope.md R3). -/
def maxRomLength : Nat := 3584

/-- LOAD: the new state and `load_ok`. `none` is a source that cannot be read (70_reset_and_hazards.md R172, R173).
Log entry 10. -/
def State.applyLoad (s : State) : Option (List Byte) → State × Bool
  | none => (s, false)
  | some bytes =>
    if bytes.length ≤ maxRomLength then ({ s.storeBytes 0x200 bytes with loaded := true }, true)
    else (s, false)

/-- One timer's part of a TICK: down by 1, floored at 0 (60_exceptions.md R150). -/
def tickTimer (t : Byte) : Byte := if 0 < t then t - 1 else t

/-- TICK: both timers, and nothing else (60_exceptions.md R150). -/
def State.applyTick (s : State) : State := { s with dt := tickTimer s.dt, st := tickTimer s.st }

/-! ### Outputs (10_state.md R23, 60_exceptions.md R155) -/

/-- `FB[y][x]`, on or off; a coordinate outside the grid names no cell and reads as off. -/
def State.cell (s : State) (x y : Nat) : Bool :=
  decide (x < 64) && decide (y < 32) && s.fb.getLsbD (y * 64 + x)

/-- The output `fb_out`: 2048 bits, index y*64 + x. -/
def State.fbOut (s : State) : BitVec 2048 := s.fb

/-- The output `sound_on` = (ST > 0). -/
def State.soundOn (s : State) : Bool := decide (0 < s.st)

/-- The output `loaded`. -/
def State.loadedOut (s : State) : Bool := s.loaded

/-- The output `fault`: the cause's code and the info when the latch is set. -/
def State.faultOut (s : State) : Option (BitVec 3 × Word) := s.fault.map fun r => (r.cause.code, r.info)

end Sys2Proof.Machine
end

