-- ==== Sys2Proof/Machine/Flags.lean ====
section
/-! DEFINITION. The values VF is written with as a flag (10_state.md R11): each computation once, exact on natural
numbers (45_family_8_alu.md R109), and the flag write. -/

namespace Sys2Proof.Machine

/-- 8XY4: the carry out of bit 7, 1 when the exact sum is above 255 (45_family_8_alu.md R104). -/
def carryFlag (a b : Byte) : Bool := decide (a.toNat + b.toNat > 255)

/-- 8XY5 and 8XY7: strictly greater; equal operands give 0 (45_family_8_alu.md R105, R107). -/
def greaterFlag (a b : Byte) : Bool := decide (a.toNat > b.toNat)

/-- 8XY6: bit 0, the bit a right shift drops (45_family_8_alu.md R106). -/
def lowBitFlag (a : Byte) : Bool := a.getLsbD 0

/-- 8XYE: bit 7, the bit a left shift drops (45_family_8_alu.md R108). -/
def highBitFlag (a : Byte) : Bool := a.getLsbD 7

/-- The byte a flag write stores, 0x01 or 0x00 (10_state.md R11). -/
def flagByte (f : Bool) : Byte := if f then 1 else 0

/-- Write VF as a flag. -/
def State.setFlag (s : State) (f : Bool) : State := s.setReg VF (flagByte f)

end Sys2Proof.Machine
end

