-- ==== Sys2Proof/Machine/Alu.lean ====
section
/-! DEFINITION. Family 8 (45_family_8_alu.md). The flag-writing instructions write VF first and then read the operands
again, in the order of the rules (00_scope.md R8; log entry 15, UNVERIFIED against the reference). -/

namespace Sys2Proof.Machine

/-- `V[x] <- op V[x] V[y]`, the operands read from the present state. -/
def State.combine (s : State) (op : Byte → Byte → Byte) (x y : Reg) : State := s.setReg x (op (s.reg x) (s.reg y))

/-- 8XY0: VX <- VY (R100). -/
def execLdReg (x y : Reg) (s : State) : Result := .next (s.combine (fun _ b => b) x y)

/-- 8XY1: VX <- VX OR VY (R101). -/
def execOr (x y : Reg) (s : State) : Result := .next (s.combine (fun a b => a ||| b) x y)

/-- 8XY2: VX <- VX AND VY (R102). -/
def execAnd (x y : Reg) (s : State) : Result := .next (s.combine (fun a b => a &&& b) x y)

/-- 8XY3: VX <- VX XOR VY (R103). -/
def execXor (x y : Reg) (s : State) : Result := .next (s.combine (fun a b => a ^^^ b) x y)

/-- 8XY4: the sum is taken first, then VF <- carry, then VX <- sum mod 256 (R104). -/
def execAddReg (x y : Reg) (s : State) : Result :=
  .next ((s.setFlag (carryFlag (s.reg x) (s.reg y))).setReg x (s.reg x + s.reg y))

/-- 8XY5: VF <- (VX > VY), then VX <- (VX - VY) mod 256 with both read again (R105). -/
def execSub (x y : Reg) (s : State) : Result :=
  .next ((s.setFlag (greaterFlag (s.reg x) (s.reg y))).combine (fun a b => a - b) x y)

/-- 8XY6: VF <- bit 0 of VX, then VX <- VX >> 1 with VX read again (R106). -/
def execShr (x : Reg) (s : State) : Result :=
  .next ((s.setFlag (lowBitFlag (s.reg x))).combine (fun a _ => a >>> 1) x x)

/-- 8XY7: VF <- (VY > VX), then VX <- (VY - VX) mod 256 with both read again (R107). -/
def execSubn (x y : Reg) (s : State) : Result :=
  .next ((s.setFlag (greaterFlag (s.reg y) (s.reg x))).combine (fun a b => b - a) x y)

/-- 8XYE: VF <- bit 7 of VX, then VX <- (VX << 1) mod 256 with VX read again (R108). -/
def execShl (x : Reg) (s : State) : Result :=
  .next ((s.setFlag (highBitFlag (s.reg x))).combine (fun a _ => a <<< 1) x x)

end Sys2Proof.Machine
end

