-- ==== Sys2Proof/Machine/ClearReturn.lean ====
section
/-! DEFINITION. Family 0 (41_family_0_clear_return.md). In every meaning `s.pc` is the advanced pc, the address of the
next instruction (40_step_cycle.md R72). -/

namespace Sys2Proof.Machine

/-- 00E0: clear the framebuffer (R80). -/
def execCls (s : State) : Result := .next (s.setFb 0)

/-- 00EE: pop the return address, or STACK_UNDERFLOW on an empty stack (R81). -/
def execRet (s : State) : Result :=
  match s.pop with
  | some (target, t) => .next (t.setPc target)
  | none => .next (s.raiseFault .stackUnderflow 0)

end Sys2Proof.Machine
end

