-- ==== Sys2Proof/Machine/Operands.lean ====
section
/-! DEFINITION. The operand forms: address operands (20_memory.md R37, R40), jump targets (30_encoding.md R52), key
operands (48_family_E_keys.md) and the draw's origin (47_family_D_draw.md R115). -/

namespace Sys2Proof.Machine

/-- Do the `len` bytes from `base` on all exist? With no byte there is nothing to check; else the last address,
base + len - 1, must be at most 4095 (20_memory.md R40). -/
def inMemory (base len : Nat) : Bool := decide (len = 0) || decide (base + len - 1 ≤ 4095)

/-- `zext_16(NNN)` (30_encoding.md R52). -/
def addrOperand (nnn : BitVec 12) : Word := nnn.setWidth 16

/-- `zext_16(V[x])`. -/
def State.regWord (s : State) (x : Reg) : Word := (s.reg x).zext

/-- The address data instructions use: I, as an exact natural number (20_memory.md R37). -/
def State.dataBase (s : State) : Nat := s.i.toNat

/-- V0 to VX in order (49_family_F_misc.md R132). -/
def State.regBlock (s : State) (x : Reg) : List Byte := s.v.toList.take (x.val + 1)

/-- The three decimal digits of a byte: hundreds, tens, ones (49_family_F_misc.md R131). -/
def bcdDigits (b : Byte) : List Byte :=
  [BitVec.ofNat 8 (b.toNat / 100), BitVec.ofNat 8 (b.toNat / 10 % 10), BitVec.ofNat 8 (b.toNat % 10)]

/-- `keys[k]` (10_state.md R22). -/
def State.keyDown (s : State) (k : Nat) : Bool := s.inputs.keys.getLsbD k

/-- The least k in 0..15 with keys[k] (49_family_F_misc.md R126). -/
def State.lowestKey (s : State) : Option Reg := (List.finRange 16).find? fun k => s.keyDown k.val

/-- `V[x] mod 64`, the column of a draw's origin (47_family_D_draw.md R115). -/
def State.originX (s : State) (x : Reg) : Nat := (s.reg x).toNat % 64

/-- `V[y] mod 32`, the row of a draw's origin (47_family_D_draw.md R115). -/
def State.originY (s : State) (y : Reg) : Nat := (s.reg y).toNat % 32

end Sys2Proof.Machine
end

