-- ==== Sys2Proof/Machine/Draw.lean ====
section
/-! DEFINITION. Family D, the sprite draw (47_family_D_draw.md R115). -/

namespace Sys2Proof.Machine

/-- What a draw works on: the framebuffer, and whether a drawn cell was 1 before its flip. -/
structure Canvas where
  fb : BitVec 2048
  hit : Bool
  deriving DecidableEq, Repr

/-- One set sprite bit at (px, py): outside the grid it is clipped; inside, a cell that holds 1 is a collision and the
cell is flipped (R115). -/
def drawPixel (px py : Nat) (c : Canvas) : Canvas :=
  if px ≤ 63 ∧ py ≤ 31 then
    { fb := c.fb ^^^ BitVec.twoPow 2048 (py * 64 + px), hit := c.hit || c.fb.getLsbD (py * 64 + px) }
  else c

/-- One sprite byte at row py: column `col` of the sprite is bit 7 - col (R115). -/
def drawRow (x0 py : Nat) (b : Byte) (c : Canvas) : Canvas :=
  (List.range 8).foldl (fun c col => if b.getLsbD (7 - col) then drawPixel (x0 + col) py c else c) c

/-- The sprite's bytes, one row each, from row py down (R115). -/
def drawRows (x0 py : Nat) : List Byte → Canvas → Canvas
  | [], c => c
  | b :: bs, c => drawRows x0 (py + 1) bs (drawRow x0 py b c)

/-- DXYN: the origin is read before VF is cleared, the whole range of sprite bytes is checked before anything changes,
and VF ends 1 exactly when a drawn cell held 1 (R115, 20_memory.md R40). -/
def execDrw (x y : Reg) (n : BitVec 4) (s : State) : Result :=
  if inMemory s.dataBase n.toNat then
    let c := drawRows (s.originX x) (s.originY y) (s.loadBytes s.dataBase n.toNat) { fb := s.fb, hit := false }
    .next ((s.setFb c.fb).setFlag c.hit)
  else .next (s.raiseFault .dataOob s.i)

end Sys2Proof.Machine
end

