-- ==== Sys2Proof/Machine/Immediate.lean ====
section
/-! DEFINITION. Families 6 and 7: load and add a constant (44_family_6_7_immediate.md). -/

namespace Sys2Proof.Machine

/-- 6XNN: VX <- NN (R95). -/
def execLdImm (x : Reg) (nn : Byte) (s : State) : Result := .next (s.setReg x nn)

/-- 7XNN: VX <- (VX + NN) mod 256, no flag (R96). -/
def execAddImm (x : Reg) (nn : Byte) (s : State) : Result := .next (s.setReg x (s.reg x + nn))

end Sys2Proof.Machine
end

