-- ==== Sys2Proof/Machine/IndexRandom.lean ====
section
/-! DEFINITION. Families A and C: load I, and the random byte (46_family_9_A_B_C.md). -/

namespace Sys2Proof.Machine

/-- ANNN: I <- NNN (R111). -/
def execLdI (nnn : BitVec 12) (s : State) : Result := .next (s.setI (addrOperand nnn))

/-- CXNN: VX <- rnd AND NN, with the `rnd` this STEP samples (R113). -/
def execRnd (x : Reg) (nn : Byte) (s : State) : Result := .next (s.setReg x (s.inputs.rnd &&& nn))

end Sys2Proof.Machine
end

