-- ==== Sys2Proof/Machine/JumpCall.lean ====
section
/-! DEFINITION. Families 1, 2 and B: the jumps and the call (42_family_1_2_jump_call.md, 46_family_9_A_B_C.md). -/

namespace Sys2Proof.Machine

/-- 1NNN: pc <- NNN (R85). -/
def execJp (nnn : BitVec 12) (s : State) : Result := .next (s.setPc (addrOperand nnn))

/-- 2NNN: push the advanced pc and jump, or STACK_OVERFLOW on a full stack (R86). -/
def execCall (nnn : BitVec 12) (s : State) : Result :=
  match s.push s.pc with
  | some t => .next (t.setPc (addrOperand nnn))
  | none => .next (s.raiseFault .stackOverflow 16)

/-- BNNN: pc <- NNN + V0, exact in 16 bits (R112). -/
def execJpV0 (nnn : BitVec 12) (s : State) : Result := .next (s.setPc (addrOperand nnn + s.regWord 0))

end Sys2Proof.Machine
end

