-- ==== Sys2Proof/Machine/Keys.lean ====
section
/-! DEFINITION. Family E: skip on key state (48_family_E_keys.md). -/

namespace Sys2Proof.Machine

/-- EX9E: skip if the key named by VX is pressed; KEY_OOB when VX > 15 (R120). -/
def execSkp (x : Reg) (s : State) : Result :=
  if (s.reg x).toNat > 15 then .next (s.raiseFault .keyOob (s.regWord x))
  else .next (s.skipIf (s.keyDown (s.reg x).toNat))

/-- EXA1: skip if the key named by VX is not pressed; KEY_OOB when VX > 15 (R121). -/
def execSknp (x : Reg) (s : State) : Result :=
  if (s.reg x).toNat > 15 then .next (s.raiseFault .keyOob (s.regWord x))
  else .next (s.skipIf (!s.keyDown (s.reg x).toNat))

end Sys2Proof.Machine
end

