-- ==== Sys2Proof/Machine/NoOp.lean ====
section
/-! DEFINITION. What a word does that selects no instruction (30_encoding.md R55). -/

namespace Sys2Proof.Machine

/-- NOP: nothing beyond the advance of pc, which is already done (R55, 40_step_cycle.md R73). -/
def execNop (s : State) : Result := .next s

end Sys2Proof.Machine
end

