-- ==== Sys2Proof/Machine/Skip.lean ====
section
/-! DEFINITION. Families 3, 4, 5 and 9: the compare-and-skip instructions (43_family_3_4_5_skip.md,
46_family_9_A_B_C.md). -/

namespace Sys2Proof.Machine

/-- 3XNN: skip if VX = NN (R90). -/
def execSeImm (x : Reg) (nn : Byte) (s : State) : Result := .next (s.skipIf (s.reg x == nn))

/-- 4XNN: skip if VX differs from NN (R91). -/
def execSneImm (x : Reg) (nn : Byte) (s : State) : Result := .next (s.skipIf (s.reg x != nn))

/-- 5XY0: skip if VX = VY (R92). -/
def execSeReg (x y : Reg) (s : State) : Result := .next (s.skipIf (s.reg x == s.reg y))

/-- 9XY0: skip if VX differs from VY (R110). -/
def execSneReg (x y : Reg) (s : State) : Result := .next (s.skipIf (s.reg x != s.reg y))

end Sys2Proof.Machine
end

