-- ==== Sys2Proof/Machine/TimersMemory.lean ====
section
/-! DEFINITION. Family F: timers, key wait, index arithmetic and memory transfer (49_family_F_misc.md). -/

namespace Sys2Proof.Machine

/-- FX07: VX <- DT (R125). -/
def execLdVxDt (x : Reg) (s : State) : Result := .next (s.setReg x s.dt)

/-- FX0A: VX <- the lowest pressed key, or pc <- pc - 2 when none is pressed (R126). -/
def execLdVxK (x : Reg) (s : State) : Result :=
  .next (match s.lowestKey with
    | some k => s.setReg x (BitVec.ofNat 8 k.val)
    | none => s.rewind)

/-- FX15: DT <- VX (R127). -/
def execLdDtVx (x : Reg) (s : State) : Result := .next (s.setDt (s.reg x))

/-- FX18: ST <- VX (R128). -/
def execLdStVx (x : Reg) (s : State) : Result := .next (s.setSt (s.reg x))

/-- FX1E: I <- (I + VX) mod 65536, no flag (R129). -/
def execAddI (x : Reg) (s : State) : Result := .next (s.setI (s.i + s.regWord x))

/-- FX29: I <- VX * 5, exact (R130). -/
def execLdF (x : Reg) (s : State) : Result := .next (s.setI (s.regWord x * 5))

/-- FX33: the decimal digits of VX at I, I + 1, I + 2; DATA_OOB when I + 2 > 4095 (R131). -/
def execLdB (x : Reg) (s : State) : Result :=
  if inMemory s.dataBase 3 then .next (s.storeBytes s.dataBase (bcdDigits (s.reg x)))
  else .next (s.raiseFault .dataOob s.i)

/-- FX55: V0 to VX at I to I + X; DATA_OOB when I + X > 4095 (R132). -/
def execLdMemVx (x : Reg) (s : State) : Result :=
  if inMemory s.dataBase (x.val + 1) then .next (s.storeBytes s.dataBase (s.regBlock x))
  else .next (s.raiseFault .dataOob s.i)

/-- FX65: V0 to VX from I to I + X; DATA_OOB when I + X > 4095 (R133). -/
def execLdVxMem (x : Reg) (s : State) : Result :=
  if inMemory s.dataBase (x.val + 1) then .next (s.setRegs 0 (s.loadBytes s.dataBase (x.val + 1)))
  else .next (s.raiseFault .dataOob s.i)

end Sys2Proof.Machine
end

