-- ==== Sys2Proof/Machine/Dispatch.lean ====
section
/-! DEFINITION. One arm per instruction: the execute part of a STEP (40_step_cycle.md R73), from the advanced state. -/

namespace Sys2Proof.Machine

/-- The effect of an instruction in a state whose pc is already advanced past it (40_step_cycle.md R72, R73). -/
def exec (i : Instr) (s : State) : Host.Outcome State Fault Refusal :=
  match i with
  | .CLS => Sys2Proof.Machine.execCls s
  | .RET => Sys2Proof.Machine.execRet s
  | .JP nnn => Sys2Proof.Machine.execJp nnn s
  | .CALL nnn => Sys2Proof.Machine.execCall nnn s
  | .SE_imm x nn => Sys2Proof.Machine.execSeImm x nn s
  | .SNE_imm x nn => Sys2Proof.Machine.execSneImm x nn s
  | .SE_reg x y => Sys2Proof.Machine.execSeReg x y s
  | .LD_imm x nn => Sys2Proof.Machine.execLdImm x nn s
  | .ADD_imm x nn => Sys2Proof.Machine.execAddImm x nn s
  | .LD_reg x y => Sys2Proof.Machine.execLdReg x y s
  | .OR x y => Sys2Proof.Machine.execOr x y s
  | .AND x y => Sys2Proof.Machine.execAnd x y s
  | .XOR x y => Sys2Proof.Machine.execXor x y s
  | .ADD_reg x y => Sys2Proof.Machine.execAddReg x y s
  | .SUB x y => Sys2Proof.Machine.execSub x y s
  | .SHR x => Sys2Proof.Machine.execShr x s
  | .SUBN x y => Sys2Proof.Machine.execSubn x y s
  | .SHL x => Sys2Proof.Machine.execShl x s
  | .SNE_reg x y => Sys2Proof.Machine.execSneReg x y s
  | .LD_I nnn => Sys2Proof.Machine.execLdI nnn s
  | .JP_V0 nnn => Sys2Proof.Machine.execJpV0 nnn s
  | .RND x nn => Sys2Proof.Machine.execRnd x nn s
  | .DRW x y n => Sys2Proof.Machine.execDrw x y n s
  | .SKP x => Sys2Proof.Machine.execSkp x s
  | .SKNP x => Sys2Proof.Machine.execSknp x s
  | .LD_Vx_DT x => Sys2Proof.Machine.execLdVxDt x s
  | .LD_Vx_K x => Sys2Proof.Machine.execLdVxK x s
  | .LD_DT_Vx x => Sys2Proof.Machine.execLdDtVx x s
  | .LD_ST_Vx x => Sys2Proof.Machine.execLdStVx x s
  | .ADD_I x => Sys2Proof.Machine.execAddI x s
  | .LD_F x => Sys2Proof.Machine.execLdF x s
  | .LD_B x => Sys2Proof.Machine.execLdB x s
  | .LD_mem_Vx x => Sys2Proof.Machine.execLdMemVx x s
  | .LD_Vx_mem x => Sys2Proof.Machine.execLdVxMem x s
  | .NOP _ => Sys2Proof.Machine.execNop s

end Sys2Proof.Machine
end

