-- ==== Sys2Proof/Machine/Step.lean ====
section
/-! DEFINITION. The STEP transaction (40_step_cycle.md R70 to R78) and the host's way to place one instruction. -/

namespace Sys2Proof.Machine

/-- STEP with the inputs that stand in `s.inputs`: the gate (R70), the fetch (R71), the advance (R72), decode and
execute (R73). A gated STEP changes nothing at all; a served one leaves fresh inputs for the next (log entry 2). -/
def step (s : State) : Host.Outcome State Fault Refusal :=
  if s.gated then .next s
  else
    mapNext State.nextInputs
      (match s.fetch with
        | none => .next (s.latchFault .fetchOob s.pc)
        | some op => exec (decodeWord s.cfg op) s.advance)

/-- The state with the table word `w` of `nbits` bits where the next STEP fetches it, as a LOAD would have left it:
LOADED true, FAULT none; a pc no fetch is possible from is moved to the entry point (log entry 11). -/
def State.withFetchWord (s : State) (nbits w : Nat) : State :=
  let a := if s.pc.toNat ≤ 4094 then s.pc else 0x200
  { s.storeBytes a.toNat (bytesOfWord (BitVec.ofNat 16 (w % 2 ^ nbits))) with
    pc := a, loaded := true, fault := none }

end Sys2Proof.Machine
end

