-- ==== Sys2Proof/Machine/Transactions.lean ====
section
/-! DEFINITION. The host's transactions and schedules (00_scope.md R6, 70_reset_and_hazards.md R178, R181). -/

namespace Sys2Proof.Machine

/-- What the host can issue (00_scope.md R6). A LOAD of `none` is a LOAD whose source cannot be read
(70_reset_and_hazards.md R173). -/
inductive Transaction where
  | reset
  | load (source : Option (List Byte))
  | step (keys : BitVec 16) (rnd : Byte)
  | tick
  deriving DecidableEq, Repr

/-- Serve one transaction; each runs to completion (00_scope.md R6). A STEP drives the inputs and then steps
(40_step_cycle.md R77, R78). -/
def transact (t : Transaction) (s : State) : Result :=
  match t with
  | .reset => .next s.applyReset
  | .load source => .next (s.applyLoad source).1
  | .step keys rnd => step (s.withInputs keys rnd)
  | .tick => .next s.applyTick

/-- Serve the transactions of a schedule one after the other (00_scope.md R6, 20_memory.md R41 (2)). -/
def runSchedule : List Transaction → State → Result
  | [], s => .next s
  | t :: ts, s =>
    match transact t s with
    | .next s' => runSchedule ts s'
    | .fault r => .fault r
    | .refused r => .refused r

/-- One frame of the host's loop: one keypad sample, one STEP for each random byte (so `IPF` is their number), one TICK
(70_reset_and_hazards.md R178). -/
def frame (keys : BitVec 16) (rnds : List Byte) : List Transaction :=
  rnds.map (Transaction.step keys) ++ [.tick]

/-- The boot sequence up to the first STEP: RESET, then LOAD (70_reset_and_hazards.md R174). -/
def boot (image : List Byte) : List Transaction := [.reset, .load (some image)]

end Sys2Proof.Machine
end

