-- ==== Sys2Proof/Safety.lean ====
section
/-! DEFINITION. What the spec says of whole machines, in the terms statements use: the invariants of reachable states
(10_state.md R25), the table of fault conditions (60_exceptions.md R140), the write matrix (10_state.md R26), the
parked state (70_reset_and_hazards.md R180) and well-formed words (30_encoding.md R58). -/

namespace Sys2Proof.Machine

/-! ### Fields of a word, by arithmetic (30_encoding.md R52) -/

/-- X, the nibble of weight 256. -/
def opX (op : Word) : Reg := Fin.ofNat 16 (op.toNat / 256)

/-- Y, the nibble of weight 16. -/
def opY (op : Word) : Reg := Fin.ofNat 16 (op.toNat / 16)

/-- N, the word modulo 16. -/
def opN (op : Word) : BitVec 4 := BitVec.ofNat 4 op.toNat

/-- NN, the word modulo 256. -/
def opNN (op : Word) : Byte := BitVec.ofNat 8 op.toNat

/-- NNN, the word modulo 4096. -/
def opNNN (op : Word) : BitVec 12 := BitVec.ofNat 12 op.toNat

/-- Every word whose bits under `mask` are `bits` decodes to the instruction `instr` of it, whatever the parameters. -/
def DecodesTo (mask bits : Word) (instr : Word → Instr) : Prop :=
  ∀ (c : Config) (op : Word), op &&& mask = bits → decodeWord c op = instr op

/-! ### Whole-machine notions -/

/-- The invariants of 10_state.md R25 that the field types do not already give, with memory's canonical form. -/
structure State.Inv (s : State) : Prop where
  mem_canonical : Mem.wf s.cfg s.mem = true
  pc_bound : s.pc.toNat ≤ 4350
  stk_bound : ∀ k : Fin 16, s.stk[k].toNat ≤ 4096

/-- Nothing has faulted: what every claim takes as a premise at launch and proves at the end (60_exceptions.md R141). -/
def State.safe (s : State) : Prop := s.fault = none

/-- The fault an instruction raises in a state, by the conditions of 60_exceptions.md R140; I, SP and the registers are
those before the instruction. -/
def faultOf (i : Instr) (s : State) : Option FaultRecord :=
  match i with
  | .RET => if s.sp.val = 0 then some { cause := .stackUnderflow, info := 0 } else none
  | .CALL _ => if s.sp.val = 16 then some { cause := .stackOverflow, info := 16 } else none
  | .DRW _ _ n =>
    if n ≠ 0 ∧ s.i.toNat + n.toNat - 1 > 4095 then some { cause := .dataOob, info := s.i } else none
  | .LD_B _ => if s.i.toNat + 2 > 4095 then some { cause := .dataOob, info := s.i } else none
  | .LD_mem_Vx x => if s.i.toNat + x.val > 4095 then some { cause := .dataOob, info := s.i } else none
  | .LD_Vx_mem x => if s.i.toNat + x.val > 4095 then some { cause := .dataOob, info := s.i } else none
  | .SKP x => if (s.reg x).toNat > 15 then some { cause := .keyOob, info := (s.reg x).zext } else none
  | .SKNP x => if (s.reg x).toNat > 15 then some { cause := .keyOob, info := (s.reg x).zext } else none
  | .CLS | .JP _ | .SE_imm _ _ | .SNE_imm _ _ | .SE_reg _ _ | .LD_imm _ _ | .ADD_imm _ _ | .LD_reg _ _
  | .OR _ _ | .AND _ _ | .XOR _ _ | .ADD_reg _ _ | .SUB _ _ | .SHR _ | .SUBN _ _ | .SHL _ | .SNE_reg _ _
  | .LD_I _ | .JP_V0 _ | .RND _ _ | .LD_Vx_DT _ | .LD_Vx_K _ | .LD_DT_Vx _ | .LD_ST_Vx _ | .ADD_I _ | .LD_F _
  | .NOP _ => none

/-- What an instruction may change besides the FAULT latch. -/
structure WriteSet where
  /-- pc beyond the advance. -/
  pc : Bool := false
  regs : List Reg := []
  index : Bool := false
  stack : Bool := false
  delay : Bool := false
  sound : Bool := false
  screen : Bool := false
  /-- The first byte stored to and the number of bytes stored. -/
  stored : Nat × Nat := (0, 0)

/-- The write matrix of 10_state.md R26, one row per instruction, with the stored addresses of 20_memory.md R38. -/
def writeMatrix (i : Instr) (s : State) : WriteSet :=
  match i with
  | .CLS => { screen := true }
  | .RET => { pc := true, stack := true }
  | .JP _ => { pc := true }
  | .JP_V0 _ => { pc := true }
  | .CALL _ => { pc := true, stack := true }
  | .SE_imm _ _ => { pc := true }
  | .SNE_imm _ _ => { pc := true }
  | .SE_reg _ _ => { pc := true }
  | .SNE_reg _ _ => { pc := true }
  | .SKP _ => { pc := true }
  | .SKNP _ => { pc := true }
  | .LD_imm x _ => { regs := [x] }
  | .ADD_imm x _ => { regs := [x] }
  | .LD_reg x _ => { regs := [x] }
  | .OR x _ => { regs := [x] }
  | .AND x _ => { regs := [x] }
  | .XOR x _ => { regs := [x] }
  | .RND x _ => { regs := [x] }
  | .LD_Vx_DT x => { regs := [x] }
  | .LD_Vx_K x => { pc := true, regs := [x] }
  | .ADD_reg x _ => { regs := [x, VF] }
  | .SUB x _ => { regs := [x, VF] }
  | .SHR x => { regs := [x, VF] }
  | .SUBN x _ => { regs := [x, VF] }
  | .SHL x => { regs := [x, VF] }
  | .LD_I _ => { index := true }
  | .ADD_I _ => { index := true }
  | .LD_F _ => { index := true }
  | .DRW _ _ _ => { regs := [VF], screen := true }
  | .LD_DT_Vx _ => { delay := true }
  | .LD_ST_Vx _ => { sound := true }
  | .LD_B _ => { stored := (s.dataBase, 3) }
  | .LD_mem_Vx x => { stored := (s.dataBase, x.val + 1) }
  | .LD_Vx_mem x => { regs := (List.finRange 16).filter fun k => decide (k ≤ x) }
  | .NOP _ => {}

/-- Everything outside the write set is as it was: every register not listed, every byte of memory outside the stored
ones, and each of pc, I, STK with SP, DT, ST and FB unless named; LOADED, the parameters and the inputs always. -/
structure WriteSet.Respected (w : WriteSet) (s t : State) : Prop where
  pc : w.pc = false → t.pc = s.pc
  regs : ∀ r : Reg, r ∉ w.regs → t.reg r = s.reg r
  index : w.index = false → t.i = s.i
  stk : w.stack = false → t.stk = s.stk
  sp : w.stack = false → t.sp = s.sp
  delay : w.delay = false → t.dt = s.dt
  sound : w.sound = false → t.st = s.st
  screen : w.screen = false → t.fb = s.fb
  memory : ∀ a : Nat, ¬ (w.stored.1 ≤ a ∧ a < w.stored.1 + w.stored.2) → t.byteAt a = s.byteAt a
  loaded : t.loaded = s.loaded
  cfg : t.cfg = s.cfg
  inputs : t.inputs = s.inputs

/-- The instructions that read `keys` (40_step_cycle.md R77). -/
def readsKeys (i : Instr) : Bool :=
  match i with
  | .SKP _ | .SKNP _ | .LD_Vx_K _ => true
  | .CLS | .RET | .JP _ | .CALL _ | .SE_imm _ _ | .SNE_imm _ _ | .SE_reg _ _ | .LD_imm _ _ | .ADD_imm _ _
  | .LD_reg _ _ | .OR _ _ | .AND _ _ | .XOR _ _ | .ADD_reg _ _ | .SUB _ _ | .SHR _ | .SUBN _ _ | .SHL _
  | .SNE_reg _ _ | .LD_I _ | .JP_V0 _ | .RND _ _ | .DRW _ _ _ | .LD_Vx_DT _ | .LD_DT_Vx _ | .LD_ST_Vx _ | .ADD_I _
  | .LD_F _ | .LD_B _ | .LD_mem_Vx _ | .LD_Vx_mem _ | .NOP _ => false

/-- The instruction that reads `rnd` (40_step_cycle.md R77). -/
def readsRnd (i : Instr) : Bool :=
  match i with
  | .RND _ _ => true
  | .CLS | .RET | .JP _ | .CALL _ | .SE_imm _ _ | .SNE_imm _ _ | .SE_reg _ _ | .LD_imm _ _ | .ADD_imm _ _
  | .LD_reg _ _ | .OR _ _ | .AND _ _ | .XOR _ _ | .ADD_reg _ _ | .SUB _ _ | .SHR _ | .SUBN _ _ | .SHL _
  | .SNE_reg _ _ | .LD_I _ | .JP_V0 _ | .DRW _ _ _ | .SKP _ | .SKNP _ | .LD_Vx_DT _ | .LD_Vx_K _ | .LD_DT_Vx _
  | .LD_ST_Vx _ | .ADD_I _ | .LD_F _ | .LD_B _ | .LD_mem_Vx _ | .LD_Vx_mem _ | .NOP _ => false

/-- Does the sprite of DXYN in this state have a set bit over column px, row py of the grid? Row y0 + r of the grid lies
under the sprite byte at I + r, and column x0 + c under its bit 7 - c (47_family_D_draw.md R115). -/
def State.spriteBit (s : State) (x y : Reg) (n : BitVec 4) (px py : Nat) : Bool :=
  decide (s.originX x ≤ px ∧ px < s.originX x + 8 ∧ s.originY y ≤ py ∧ py < s.originY y + n.toNat) &&
    (s.byteAt (s.i.toNat + (py - s.originY y))).getLsbD (7 - (px - s.originX x))

/-- Parked: LOADED, no fault, and the word at pc = a <= 4094 is 1NNN with NNN = a (70_reset_and_hazards.md R180). -/
def State.parked (s : State) : Prop :=
  s.loaded = true ∧ s.fault = none ∧ s.pc.toNat ≤ 4094 ∧
    (s.byteAt s.pc.toNat).toNat = 0x10 + s.pc.toNat / 256 ∧
    (s.byteAt (s.pc.toNat + 1)).toNat = s.pc.toNat % 256

/-- A word a well-formed program may execute: neither reading-dependent nor alias (30_encoding.md R58). -/
def wellFormedWord (op : Word) : Bool := classify op = .canonical || classify op = .certainNoOp

end Sys2Proof.Machine
end

