-- ==== Sys2Proof/Certificates/Slice0/Obligations.lean ====
section
/-! DEFINITION. The statements for the provers. In a statement about `exec` the state `s` is the one an instruction
executes in, its pc already advanced to the next instruction (40_step_cycle.md R72). -/

open Sys2Proof Sys2Proof.Machine

/-! ### Encoding -/

/-- Decoding the bytes of a well-formed instruction, whatever follows them and whatever the parameters, gives it back
(30_encoding.md R51, R56, R59). A NOP is well-formed when its word selects nothing (R55). -/
def Obligations.DecodeInvertsEncode : Prop :=
  ∀ (c : Config) (i : Instr) (rest : List Byte), i.wellFormed c = true →
    decode c (encodeBytes i ++ rest) = .ok (i, rest)

/-- The mask and match columns of 30_encoding.md R56, the alias words of R57 and R58 taken with them: whatever the
parameters, every word of a row decodes to the row's instruction with the operands read off by arithmetic (R52). -/
def Obligations.DecodeFollowsOpcodeMap : Prop :=
  DecodesTo 0xF0FF 0x00E0 (fun _ => .CLS) ∧
  DecodesTo 0xF0FF 0x00EE (fun _ => .RET) ∧
  DecodesTo 0xF000 0x1000 (fun op => .JP (opNNN op)) ∧
  DecodesTo 0xF000 0x2000 (fun op => .CALL (opNNN op)) ∧
  DecodesTo 0xF000 0x3000 (fun op => .SE_imm (opX op) (opNN op)) ∧
  DecodesTo 0xF000 0x4000 (fun op => .SNE_imm (opX op) (opNN op)) ∧
  DecodesTo 0xF000 0x5000 (fun op => .SE_reg (opX op) (opY op)) ∧
  DecodesTo 0xF000 0x6000 (fun op => .LD_imm (opX op) (opNN op)) ∧
  DecodesTo 0xF000 0x7000 (fun op => .ADD_imm (opX op) (opNN op)) ∧
  DecodesTo 0xF00F 0x8000 (fun op => .LD_reg (opX op) (opY op)) ∧
  DecodesTo 0xF00F 0x8001 (fun op => .OR (opX op) (opY op)) ∧
  DecodesTo 0xF00F 0x8002 (fun op => .AND (opX op) (opY op)) ∧
  DecodesTo 0xF00F 0x8003 (fun op => .XOR (opX op) (opY op)) ∧
  DecodesTo 0xF00F 0x8004 (fun op => .ADD_reg (opX op) (opY op)) ∧
  DecodesTo 0xF00F 0x8005 (fun op => .SUB (opX op) (opY op)) ∧
  DecodesTo 0xF00F 0x8006 (fun op => .SHR (opX op)) ∧
  DecodesTo 0xF00F 0x8007 (fun op => .SUBN (opX op) (opY op)) ∧
  DecodesTo 0xF00F 0x800E (fun op => .SHL (opX op)) ∧
  DecodesTo 0xF000 0x9000 (fun op => .SNE_reg (opX op) (opY op)) ∧
  DecodesTo 0xF000 0xA000 (fun op => .LD_I (opNNN op)) ∧
  DecodesTo 0xF000 0xB000 (fun op => .JP_V0 (opNNN op)) ∧
  DecodesTo 0xF000 0xC000 (fun op => .RND (opX op) (opNN op)) ∧
  DecodesTo 0xF000 0xD000 (fun op => .DRW (opX op) (opY op) (opN op)) ∧
  DecodesTo 0xF0FF 0xE09E (fun op => .SKP (opX op)) ∧
  DecodesTo 0xF0FF 0xE0A1 (fun op => .SKNP (opX op)) ∧
  DecodesTo 0xF0FF 0xF007 (fun op => .LD_Vx_DT (opX op)) ∧
  DecodesTo 0xF0FF 0xF00A (fun op => .LD_Vx_K (opX op)) ∧
  DecodesTo 0xF0FF 0xF015 (fun op => .LD_DT_Vx (opX op)) ∧
  DecodesTo 0xF0FF 0xF018 (fun op => .LD_ST_Vx (opX op)) ∧
  DecodesTo 0xF0FF 0xF01E (fun op => .ADD_I (opX op)) ∧
  DecodesTo 0xF0FF 0xF029 (fun op => .LD_F (opX op)) ∧
  DecodesTo 0xF0FF 0xF033 (fun op => .LD_B (opX op)) ∧
  DecodesTo 0xF0FF 0xF055 (fun op => .LD_mem_Vx (opX op)) ∧
  DecodesTo 0xF0FF 0xF065 (fun op => .LD_Vx_mem (opX op))

/-- Every word decodes to a well-formed instruction (30_encoding.md R59: decoding is total). -/
def Obligations.DecodeGivesWellFormed : Prop :=
  ∀ (c : Config) (op : Word), (decodeWord c op).wellFormed c = true

/-- The classes of 30_encoding.md R58. A word that is not reading-dependent decodes alike under every value of the
parameters; a certain no-op word is a NOP and a canonical or alias word is not; an alias word executes as a canonical
one; and a reading-dependent word is a NOP under some value of the parameters and an instruction under another. -/
def Obligations.OnlyReadingDependentWordsVary : Prop :=
  ∀ op : Word,
    (classify op ≠ .readingDependent → ∀ c c' : Config, decodeWord c op = decodeWord c' op) ∧
    (classify op = .certainNoOp → ∀ c : Config, decodeWord c op = .NOP op) ∧
    (classify op = .canonical ∨ classify op = .aliasWord → ∀ c : Config, decodeWord c op ≠ .NOP op) ∧
    (classify op = .aliasWord → ∀ c : Config, classify (encode (decodeWord c op)) = .canonical) ∧
    (classify op = .readingDependent →
      (∃ c : Config, decodeWord c op = .NOP op) ∧ (∃ c : Config, decodeWord c op ≠ .NOP op))

/-- The selectors of families 0 and E (30_encoding.md R54): under LowNibble the low nibble alone selects, under LowByte
the whole low byte, and a word whose key is none of the two is a NOP. -/
def Obligations.SelectorsChooseTheKey : Prop :=
  ∀ (c : Config) (op : Word),
    (op &&& 0xF000 = 0x0000 →
      (c.sub0 = .lowNibble → decodeWord c op =
        if op.toNat % 16 = 0x0 then .CLS else if op.toNat % 16 = 0xE then .RET else .NOP op) ∧
      (c.sub0 = .lowByte → decodeWord c op =
        if op.toNat % 256 = 0xE0 then .CLS else if op.toNat % 256 = 0xEE then .RET else .NOP op)) ∧
    (op &&& 0xF000 = 0xE000 →
      (c.subE = .lowNibble → decodeWord c op =
        if op.toNat % 16 = 0xE then .SKP (opX op) else if op.toNat % 16 = 0x1 then .SKNP (opX op) else .NOP op) ∧
      (c.subE = .lowByte → decodeWord c op =
        if op.toNat % 256 = 0x9E then .SKP (opX op) else if op.toNat % 256 = 0xA1 then .SKNP (opX op)
        else .NOP op))

/-- Some words of the table of 95_test_vectors.md section 3, one of each family, decode as that table says. -/
def Obligations.SampleWordsDecode : Prop :=
  ∀ c : Config,
    decodeWord c 0x00E0 = .CLS ∧ decodeWord c 0x07EE = .RET ∧ decodeWord c 0x0123 = .NOP 0x0123 ∧
    decodeWord c 0x1ABC = .JP 0xABC ∧ decodeWord c 0x2ABC = .CALL 0xABC ∧
    decodeWord c 0x3A7F = .SE_imm 10 0x7F ∧ decodeWord c 0x4A7F = .SNE_imm 10 0x7F ∧
    decodeWord c 0x5AB7 = .SE_reg 10 11 ∧ decodeWord c 0x6A7F = .LD_imm 10 0x7F ∧
    decodeWord c 0x7A7F = .ADD_imm 10 0x7F ∧ decodeWord c 0x8AB5 = .SUB 10 11 ∧
    decodeWord c 0x8AB6 = .SHR 10 ∧ decodeWord c 0x8AB8 = .NOP 0x8AB8 ∧
    decodeWord c 0x9AB0 = .SNE_reg 10 11 ∧ decodeWord c 0xAABC = .LD_I 0xABC ∧
    decodeWord c 0xBABC = .JP_V0 0xABC ∧ decodeWord c 0xCA7F = .RND 10 0x7F ∧
    decodeWord c 0xDAB5 = .DRW 10 11 5 ∧ decodeWord c 0xEA9E = .SKP 10 ∧
    decodeWord c 0xEAA1 = .SKNP 10 ∧ decodeWord c 0xFA33 = .LD_B 10 ∧
    decodeWord c 0xFA65 = .LD_Vx_mem 10 ∧ decodeWord c 0xFA75 = .NOP 0xFA75

/-! ### The step -/

/-- The stages of a STEP (40_step_cycle.md R70 to R73): ignored when LOADED is false or FAULT is set; else
Fault(FETCH_OOB, a) when PC = a > 4094; else the word MEM[a] * 256 + MEM[a + 1] is decoded and its instruction executes
with pc = (a + 2) mod 65536. That a served STEP leaves fresh inputs for the next is the model's own (log entry 2). -/
def Obligations.StepFollowsItsStages : Prop :=
  ∀ s : State,
    ((s.loaded = false ∨ s.fault ≠ none) → step s = .next s) ∧
    (s.loaded = true → s.fault = none →
      (4094 < s.pc.toNat →
        step s = .next { s with
          fault := some { cause := .fetchOob, info := s.pc }, inputs := s.inputs.refresh }) ∧
      (s.pc.toNat ≤ 4094 → ∀ op : Word,
        op.toNat = (s.byteAt s.pc.toNat).toNat * 256 + (s.byteAt (s.pc.toNat + 1)).toNat →
        step s = mapNext State.nextInputs
          (exec (decodeWord s.cfg op) { s with pc := BitVec.ofNat 16 ((s.pc.toNat + 2) % 65536) })))

/-- When the two bytes at the program counter decode to an instruction, a STEP of a loaded, unfaulted core is that
instruction's meaning in the state with pc advanced by 2, with fresh inputs for the next STEP after it. -/
def Obligations.StepRunsDecodedInstruction : Prop :=
  ∀ (s : State) (i : Instr), s.loaded = true → s.fault = none → s.pc.toNat ≤ 4094 →
    decode s.cfg [s.byteAt s.pc.toNat, s.byteAt (s.pc.toNat + 1)] = .ok (i, []) →
    step s = mapNext State.nextInputs (exec i s.advance)

/-- A STEP always answers a next state (40_step_cycle.md R78), and its FAULT latch is set exactly by the conditions of
60_exceptions.md R140 in the order of R145: the gate, FETCH_OOB, then the one check of the decoded instruction. -/
def Obligations.FaultConditionsAreExact : Prop :=
  (Fault.code .fetchOob = 1 ∧ Fault.code .dataOob = 2 ∧ Fault.code .stackOverflow = 3 ∧
    Fault.code .stackUnderflow = 4 ∧ Fault.code .keyOob = 5) ∧
  ∀ s : State, ∃ t : State, step s = .next t ∧
    ((s.loaded = false ∨ s.fault ≠ none) → t = s) ∧
    (s.loaded = true → s.fault = none →
      (4094 < s.pc.toNat → t.fault = some { cause := .fetchOob, info := s.pc }) ∧
      (∀ i : Instr, s.pc.toNat ≤ 4094 →
        decode s.cfg [s.byteAt s.pc.toNat, s.byteAt (s.pc.toNat + 1)] = .ok (i, []) →
        t.fault = faultOf i s))

/-- A faulting STEP is precise (40_step_cycle.md R74): the state after it is the state before it in every item, PC among
them, except that FAULT is set. The inputs of the next STEP are no state, and nothing is said of them (log entry 2). -/
def Obligations.FaultingStepIsPrecise : Prop :=
  ∀ s t : State, s.fault = none → step s = .next t → t.fault ≠ none →
    t = { s with fault := t.fault, inputs := t.inputs }

/-- Fault entry inside an instruction (60_exceptions.md R141): when the condition of 60_exceptions.md R140 holds, FAULT
takes (cause, info), pc goes back to the instruction's own address and nothing else changes: no byte, register, cell or
flag (20_memory.md R40). -/
def Obligations.InstructionFaultsChangeOnlyTheLatch : Prop :=
  ∀ (i : Instr) (s : State) (r : FaultRecord), faultOf i s = some r →
    exec i s = .next { s with pc := s.pc - 2, fault := some r }

/-- An instruction whose fault condition does not hold completes: it answers a next state, leaves the latch as it was,
and changes only what its row of the write matrix of 10_state.md R26 names. -/
def Obligations.WriteMatrixHolds : Prop :=
  ∀ (i : Instr) (s : State), faultOf i s = none →
    ∃ t : State, exec i s = .next t ∧ t.fault = s.fault ∧ (writeMatrix i s).Respected s t

/-- The inputs of a STEP are read only by the instructions that name them (40_step_cycle.md R77): EX9E, EXA1 and FX0A
read `keys`, CXNN reads `rnd`, and every other instruction acts the same whatever they are; no instruction changes them. -/
def Obligations.InputsReadOnlyWhereNamed : Prop :=
  ∀ (i : Instr) (s : State) (n : Inputs),
    (readsKeys i = true → n.keys = s.inputs.keys) → (readsRnd i = true → n.rnd = s.inputs.rnd) →
    exec i { s with inputs := n } = mapNext (fun t => { t with inputs := n }) (exec i s) ∧
    ∀ t : State, exec i s = .next t → t.inputs = s.inputs

/-! ### Family 0, jumps and calls -/

/-- 00E0 (41_family_0_clear_return.md R80): every cell of the framebuffer becomes 0 and nothing else changes. -/
def Obligations.ClearScreenResult : Prop :=
  DecodesTo 0xF0FF 0x00E0 (fun _ => .CLS) ∧
  ∀ s : State, ∃ t : State, exec .CLS s = .next t ∧
    (∀ x y : Nat, t.cell x y = false) ∧
    t.fault = s.fault ∧ WriteSet.Respected { screen := true } s t

/-- 00EE (41_family_0_clear_return.md R81): with SP > 0 the top entry goes to PC and SP falls by 1, the entry keeping
its contents; with SP = 0 it raises Fault(STACK_UNDERFLOW, 0). -/
def Obligations.ReturnResult : Prop :=
  DecodesTo 0xF0FF 0x00EE (fun _ => .RET) ∧
  ∀ s : State,
    (∀ h : 0 < s.sp.val, ∃ t : State, exec .RET s = .next t ∧
      t.sp.val = s.sp.val - 1 ∧ t.pc = s.stk[s.sp.val - 1]'(by have := s.sp.isLt; omega) ∧ t.stk = s.stk ∧
      t.fault = s.fault ∧ WriteSet.Respected { pc := true, stack := true } s t) ∧
    (s.sp.val = 0 →
      exec .RET s = .next { s with pc := s.pc - 2, fault := some { cause := .stackUnderflow, info := 0 } })

/-- 1NNN and BNNN (42_family_1_2_jump_call.md R85, 46_family_9_A_B_C.md R112): PC becomes NNN, or the exact sum
NNN + V0, and nothing else changes. -/
def Obligations.JumpResults : Prop :=
  DecodesTo 0xF000 0x1000 (fun op => .JP (opNNN op)) ∧
  DecodesTo 0xF000 0xB000 (fun op => .JP_V0 (opNNN op)) ∧
  ∀ (nnn : BitVec 12) (s : State),
    (∃ t : State, exec (.JP nnn) s = .next t ∧ t.pc.toNat = nnn.toNat ∧
      t.fault = s.fault ∧ WriteSet.Respected { pc := true } s t) ∧
    (∃ t : State, exec (.JP_V0 nnn) s = .next t ∧ t.pc.toNat = nnn.toNat + (s.reg 0).toNat ∧
      t.fault = s.fault ∧ WriteSet.Respected { pc := true } s t)

/-- 2NNN (42_family_1_2_jump_call.md R86): with SP < 16 the advanced pc goes to STK[SP], no other entry changes, SP
rises by 1 and PC becomes NNN; with SP = 16 it raises Fault(STACK_OVERFLOW, 16). -/
def Obligations.CallResult : Prop :=
  DecodesTo 0xF000 0x2000 (fun op => .CALL (opNNN op)) ∧
  ∀ (nnn : BitVec 12) (s : State),
    (s.sp.val < 16 → ∃ t : State, exec (.CALL nnn) s = .next t ∧
      (∀ k : Fin 16, t.stk[k] = if k.val = s.sp.val then s.pc else s.stk[k]) ∧
      t.sp.val = s.sp.val + 1 ∧ t.pc.toNat = nnn.toNat ∧
      t.fault = s.fault ∧ WriteSet.Respected { pc := true, stack := true } s t) ∧
    (s.sp.val = 16 →
      exec (.CALL nnn) s =
        .next { s with pc := s.pc - 2, fault := some { cause := .stackOverflow, info := 16 } })

/-- A call and the return that pops its entry (41_family_0_clear_return.md R81, 42_family_1_2_jump_call.md R86):
whatever ran between, if the stack and its pointer are as the call left them, the return goes to the instruction after
the call and restores the stack pointer. -/
def Obligations.ReturnGoesBackAfterCall : Prop :=
  ∀ (nnn : BitVec 12) (s t u : State), s.sp.val < 16 → exec (.CALL nnn) s = .next t →
    u.stk = t.stk → u.sp = t.sp →
    ∃ w : State, exec .RET u = .next w ∧ w.pc = s.pc ∧ w.sp = s.sp

/-! ### Skips -/

/-- 3XNN, 4XNN, 5XY0, 9XY0 (43_family_3_4_5_skip.md R90 to R92, 46_family_9_A_B_C.md R110): pc rises by 2 exactly when
the comparison holds, and nothing else changes. -/
def Obligations.CompareSkipResults : Prop :=
  DecodesTo 0xF000 0x3000 (fun op => .SE_imm (opX op) (opNN op)) ∧
  DecodesTo 0xF000 0x4000 (fun op => .SNE_imm (opX op) (opNN op)) ∧
  DecodesTo 0xF000 0x5000 (fun op => .SE_reg (opX op) (opY op)) ∧
  DecodesTo 0xF000 0x9000 (fun op => .SNE_reg (opX op) (opY op)) ∧
  ∀ (x y : Reg) (nn : Byte) (s : State),
    (∃ t : State, exec (.SE_imm x nn) s = .next t ∧
      t.pc = (if s.reg x = nn then s.pc + 2 else s.pc) ∧
      t.fault = s.fault ∧ WriteSet.Respected { pc := true } s t) ∧
    (∃ t : State, exec (.SNE_imm x nn) s = .next t ∧
      t.pc = (if s.reg x ≠ nn then s.pc + 2 else s.pc) ∧
      t.fault = s.fault ∧ WriteSet.Respected { pc := true } s t) ∧
    (∃ t : State, exec (.SE_reg x y) s = .next t ∧
      t.pc = (if s.reg x = s.reg y then s.pc + 2 else s.pc) ∧
      t.fault = s.fault ∧ WriteSet.Respected { pc := true } s t) ∧
    (∃ t : State, exec (.SNE_reg x y) s = .next t ∧
      t.pc = (if s.reg x ≠ s.reg y then s.pc + 2 else s.pc) ∧
      t.fault = s.fault ∧ WriteSet.Respected { pc := true } s t)

/-- EX9E and EXA1 (48_family_E_keys.md R120, R121; 60_exceptions.md R144): with VX <= 15 pc rises by 2 exactly when key
VX of this STEP's sample is pressed, or is not, and nothing else changes; with VX > 15 each raises Fault(KEY_OOB, VX). -/
def Obligations.KeySkipResults : Prop :=
  DecodesTo 0xF0FF 0xE09E (fun op => .SKP (opX op)) ∧
  DecodesTo 0xF0FF 0xE0A1 (fun op => .SKNP (opX op)) ∧
  ∀ (x : Reg) (s : State),
    ((s.reg x).toNat ≤ 15 →
      (∃ t : State, exec (.SKP x) s = .next t ∧
        t.pc = (if s.inputs.keys.getLsbD (s.reg x).toNat = true then s.pc + 2 else s.pc) ∧
        t.fault = s.fault ∧ WriteSet.Respected { pc := true } s t) ∧
      (∃ t : State, exec (.SKNP x) s = .next t ∧
        t.pc = (if s.inputs.keys.getLsbD (s.reg x).toNat = false then s.pc + 2 else s.pc) ∧
        t.fault = s.fault ∧ WriteSet.Respected { pc := true } s t)) ∧
    (15 < (s.reg x).toNat →
      exec (.SKP x) s =
        .next { s with pc := s.pc - 2, fault := some { cause := .keyOob, info := (s.reg x).setWidth 16 } } ∧
      exec (.SKNP x) s =
        .next { s with pc := s.pc - 2, fault := some { cause := .keyOob, info := (s.reg x).setWidth 16 } })

/-! ### Constants and the ALU -/

/-- 6XNN (44_family_6_7_immediate.md R95): VX = NN exactly, and no other register or flag changes. -/
def Obligations.LoadConstantResult : Prop :=
  DecodesTo 0xF000 0x6000 (fun op => .LD_imm (opX op) (opNN op)) ∧
  ∀ (x : Reg) (nn : Byte) (s : State), ∃ t : State, exec (.LD_imm x nn) s = .next t ∧
    t.reg x = nn ∧ t.fault = s.fault ∧ WriteSet.Respected { regs := [x] } s t

/-- 7XNN (44_family_6_7_immediate.md R96): VX = (VX + NN) mod 256, and no other register changes, VF neither unless it
is VX. -/
def Obligations.AddConstantResult : Prop :=
  DecodesTo 0xF000 0x7000 (fun op => .ADD_imm (opX op) (opNN op)) ∧
  ∀ (x : Reg) (nn : Byte) (s : State), ∃ t : State, exec (.ADD_imm x nn) s = .next t ∧
    (t.reg x).toNat = ((s.reg x).toNat + nn.toNat) % 256 ∧
    t.fault = s.fault ∧ WriteSet.Respected { regs := [x] } s t

/-- 8XY0 to 8XY3 (45_family_8_alu.md R100 to R103): VX becomes VY, or the bitwise OR, AND or XOR of both, bit by bit,
and no other register changes, VF neither unless it is VX. -/
def Obligations.CopyAndLogicResults : Prop :=
  DecodesTo 0xF00F 0x8000 (fun op => .LD_reg (opX op) (opY op)) ∧
  DecodesTo 0xF00F 0x8001 (fun op => .OR (opX op) (opY op)) ∧
  DecodesTo 0xF00F 0x8002 (fun op => .AND (opX op) (opY op)) ∧
  DecodesTo 0xF00F 0x8003 (fun op => .XOR (opX op) (opY op)) ∧
  ∀ (x y : Reg) (s : State),
    (∃ t : State, exec (.LD_reg x y) s = .next t ∧ t.reg x = s.reg y ∧
      t.fault = s.fault ∧ WriteSet.Respected { regs := [x] } s t) ∧
    (∃ t : State, exec (.OR x y) s = .next t ∧
      (∀ k < 8, (t.reg x).getLsbD k = ((s.reg x).getLsbD k || (s.reg y).getLsbD k)) ∧
      t.fault = s.fault ∧ WriteSet.Respected { regs := [x] } s t) ∧
    (∃ t : State, exec (.AND x y) s = .next t ∧
      (∀ k < 8, (t.reg x).getLsbD k = ((s.reg x).getLsbD k && (s.reg y).getLsbD k)) ∧
      t.fault = s.fault ∧ WriteSet.Respected { regs := [x] } s t) ∧
    (∃ t : State, exec (.XOR x y) s = .next t ∧
      (∀ k < 8, (t.reg x).getLsbD k = ((s.reg x).getLsbD k != (s.reg y).getLsbD k)) ∧
      t.fault = s.fault ∧ WriteSet.Respected { regs := [x] } s t)

/-- 8XY4 (45_family_8_alu.md R104): with sum = VX + VY exact, VX = sum mod 256 and VF = 1 if sum > 255, else 0; when X
is 15 the carry is lost and VF ends as the sum mod 256. -/
def Obligations.AddWithCarryResult : Prop :=
  DecodesTo 0xF00F 0x8004 (fun op => .ADD_reg (opX op) (opY op)) ∧
  ∀ (x y : Reg) (s : State), ∃ t : State, exec (.ADD_reg x y) s = .next t ∧
    (t.reg x).toNat = ((s.reg x).toNat + (s.reg y).toNat) % 256 ∧
    (x ≠ VF → (t.reg VF).toNat = if (s.reg x).toNat + (s.reg y).toNat > 255 then 1 else 0) ∧
    t.fault = s.fault ∧ WriteSet.Respected { regs := [x, VF] } s t

/-- 8XY5 and 8XY7 (45_family_8_alu.md R105, R107): VF takes the flag f = 1 exactly when the minuend is strictly greater,
and then VX takes the difference mod 256 of the two registers read again, so that a register that is VF counts as f;
when X is 15 VF ends as that difference. -/
def Obligations.SubtractResults : Prop :=
  DecodesTo 0xF00F 0x8005 (fun op => .SUB (opX op) (opY op)) ∧
  DecodesTo 0xF00F 0x8007 (fun op => .SUBN (opX op) (opY op)) ∧
  ∀ (x y : Reg) (s : State),
    (∃ t : State, exec (.SUB x y) s = .next t ∧
      (∃ f : Nat, f = (if (s.reg x).toNat > (s.reg y).toNat then 1 else 0) ∧
        (t.reg x).toNat =
          ((if x = VF then f else (s.reg x).toNat) + 256 - (if y = VF then f else (s.reg y).toNat)) % 256 ∧
        (x ≠ VF → (t.reg VF).toNat = f)) ∧
      t.fault = s.fault ∧ WriteSet.Respected { regs := [x, VF] } s t) ∧
    (∃ t : State, exec (.SUBN x y) s = .next t ∧
      (∃ f : Nat, f = (if (s.reg y).toNat > (s.reg x).toNat then 1 else 0) ∧
        (t.reg x).toNat =
          ((if y = VF then f else (s.reg y).toNat) + 256 - (if x = VF then f else (s.reg x).toNat)) % 256 ∧
        (x ≠ VF → (t.reg VF).toNat = f)) ∧
      t.fault = s.fault ∧ WriteSet.Respected { regs := [x, VF] } s t)

/-- 8XY6 and 8XYE (45_family_8_alu.md R106, R108): VF takes the bit shifted out, and then VX is shifted by one, read
again, so that X = 15 shifts the flag; VY plays no part. -/
def Obligations.ShiftResults : Prop :=
  DecodesTo 0xF00F 0x8006 (fun op => .SHR (opX op)) ∧
  DecodesTo 0xF00F 0x800E (fun op => .SHL (opX op)) ∧
  ∀ (x : Reg) (s : State),
    (∃ t : State, exec (.SHR x) s = .next t ∧
      (t.reg x).toNat = (if x = VF then (s.reg x).toNat % 2 else (s.reg x).toNat) / 2 ∧
      (x ≠ VF → (t.reg VF).toNat = (s.reg x).toNat % 2) ∧
      t.fault = s.fault ∧ WriteSet.Respected { regs := [x, VF] } s t) ∧
    (∃ t : State, exec (.SHL x) s = .next t ∧
      (t.reg x).toNat = (if x = VF then (s.reg x).toNat / 128 else (s.reg x).toNat) * 2 % 256 ∧
      (x ≠ VF → (t.reg VF).toNat = (s.reg x).toNat / 128) ∧
      t.fault = s.fault ∧ WriteSet.Respected { regs := [x, VF] } s t)

/-! ### Index, random, timers, keys -/

/-- ANNN, FX1E, FX29 (46_family_9_A_B_C.md R111, 49_family_F_misc.md R129, R130): I becomes NNN, (I + VX) mod 65536 or
VX * 5, and nothing else changes, VF neither. -/
def Obligations.IndexResults : Prop :=
  DecodesTo 0xF000 0xA000 (fun op => .LD_I (opNNN op)) ∧
  DecodesTo 0xF0FF 0xF01E (fun op => .ADD_I (opX op)) ∧
  DecodesTo 0xF0FF 0xF029 (fun op => .LD_F (opX op)) ∧
  ∀ (nnn : BitVec 12) (x : Reg) (s : State),
    (∃ t : State, exec (.LD_I nnn) s = .next t ∧ t.i.toNat = nnn.toNat ∧
      t.fault = s.fault ∧ WriteSet.Respected { index := true } s t) ∧
    (∃ t : State, exec (.ADD_I x) s = .next t ∧ t.i.toNat = (s.i.toNat + (s.reg x).toNat) % 65536 ∧
      t.fault = s.fault ∧ WriteSet.Respected { index := true } s t) ∧
    (∃ t : State, exec (.LD_F x) s = .next t ∧ t.i.toNat = (s.reg x).toNat * 5 ∧
      t.fault = s.fault ∧ WriteSet.Respected { index := true } s t)

/-- CXNN (46_family_9_A_B_C.md R113): VX = rnd AND NN, for every value of the `rnd` this STEP samples. -/
def Obligations.RandomByteResult : Prop :=
  DecodesTo 0xF000 0xC000 (fun op => .RND (opX op) (opNN op)) ∧
  ∀ (x : Reg) (nn : Byte) (s : State), ∃ t : State, exec (.RND x nn) s = .next t ∧
    (∀ k < 8, (t.reg x).getLsbD k = (s.inputs.rnd.getLsbD k && nn.getLsbD k)) ∧
    t.fault = s.fault ∧ WriteSet.Respected { regs := [x] } s t

/-- FX07, FX15, FX18 (49_family_F_misc.md R125, R127, R128): VX takes DT, DT takes VX, ST takes VX, and nothing else
changes; the sound signal follows ST at once. -/
def Obligations.TimerResults : Prop :=
  DecodesTo 0xF0FF 0xF007 (fun op => .LD_Vx_DT (opX op)) ∧
  DecodesTo 0xF0FF 0xF015 (fun op => .LD_DT_Vx (opX op)) ∧
  DecodesTo 0xF0FF 0xF018 (fun op => .LD_ST_Vx (opX op)) ∧
  ∀ (x : Reg) (s : State),
    (∃ t : State, exec (.LD_Vx_DT x) s = .next t ∧ t.reg x = s.dt ∧
      t.fault = s.fault ∧ WriteSet.Respected { regs := [x] } s t) ∧
    (∃ t : State, exec (.LD_DT_Vx x) s = .next t ∧ t.dt = s.reg x ∧
      t.fault = s.fault ∧ WriteSet.Respected { delay := true } s t) ∧
    (∃ t : State, exec (.LD_ST_Vx x) s = .next t ∧ t.st = s.reg x ∧
      (t.soundOn = true ↔ (s.reg x).toNat ≠ 0) ∧
      t.fault = s.fault ∧ WriteSet.Respected { sound := true } s t)

/-- FX0A (49_family_F_misc.md R126): with a key pressed VX takes the least pressed index and execution goes on; with
none pressed pc goes back by 2 and nothing else changes, so that the whole STEP leaves the state as it was, up to the
inputs of the next (log entry 2). -/
def Obligations.KeyWaitResult : Prop :=
  DecodesTo 0xF0FF 0xF00A (fun op => .LD_Vx_K (opX op)) ∧
  ∀ (x : Reg) (s : State),
    (∀ k : Reg, s.inputs.keys.getLsbD k.val = true → (∀ j : Reg, j < k → s.inputs.keys.getLsbD j.val = false) →
      ∃ t : State, exec (.LD_Vx_K x) s = .next t ∧ (t.reg x).toNat = k.val ∧
        t.fault = s.fault ∧ WriteSet.Respected { regs := [x] } s t) ∧
    ((∀ k : Reg, s.inputs.keys.getLsbD k.val = false) →
      exec (.LD_Vx_K x) s = .next { s with pc := s.pc - 2 } ∧
      (s.loaded = true → s.fault = none → s.pc.toNat ≤ 4094 →
        decode s.cfg [s.byteAt s.pc.toNat, s.byteAt (s.pc.toNat + 1)] = .ok (.LD_Vx_K x, []) →
        ∃ t : State, step s = .next t ∧ t = { s with inputs := t.inputs }))

/-! ### Memory transfer -/

/-- FX33 (49_family_F_misc.md R131): with I + 2 <= 4095 the hundreds, tens and ones of VX stand at I, I + 1, I + 2 and
every other byte is as before; with I + 2 > 4095 it raises Fault(DATA_OOB, I). -/
def Obligations.DecimalStoreResult : Prop :=
  DecodesTo 0xF0FF 0xF033 (fun op => .LD_B (opX op)) ∧
  ∀ (x : Reg) (s : State),
    (s.i.toNat + 2 ≤ 4095 → ∃ t : State, exec (.LD_B x) s = .next t ∧
      (t.byteAt s.i.toNat).toNat = (s.reg x).toNat / 100 ∧
      (t.byteAt (s.i.toNat + 1)).toNat = (s.reg x).toNat / 10 % 10 ∧
      (t.byteAt (s.i.toNat + 2)).toNat = (s.reg x).toNat % 10 ∧
      t.fault = s.fault ∧ WriteSet.Respected { stored := (s.dataBase, 3) } s t) ∧
    (4095 < s.i.toNat + 2 →
      exec (.LD_B x) s = .next { s with pc := s.pc - 2, fault := some { cause := .dataOob, info := s.i } })

/-- FX55 (49_family_F_misc.md R132): with I + X <= 4095 register k stands at I + k for every k <= X and every other byte
is as before, I unchanged; with I + X > 4095 it raises Fault(DATA_OOB, I). -/
def Obligations.RegisterStoreResult : Prop :=
  DecodesTo 0xF0FF 0xF055 (fun op => .LD_mem_Vx (opX op)) ∧
  ∀ (x : Reg) (s : State),
    (s.i.toNat + x.val ≤ 4095 → ∃ t : State, exec (.LD_mem_Vx x) s = .next t ∧
      (∀ k : Reg, k ≤ x → t.byteAt (s.i.toNat + k.val) = s.reg k) ∧
      t.fault = s.fault ∧ WriteSet.Respected { stored := (s.dataBase, x.val + 1) } s t) ∧
    (4095 < s.i.toNat + x.val →
      exec (.LD_mem_Vx x) s =
        .next { s with pc := s.pc - 2, fault := some { cause := .dataOob, info := s.i } })

/-- FX65 (49_family_F_misc.md R133): with I + X <= 4095 register k takes the byte at I + k for every k <= X, every
register above X and every byte is as before, I unchanged; with I + X > 4095 it raises Fault(DATA_OOB, I). -/
def Obligations.RegisterLoadResult : Prop :=
  DecodesTo 0xF0FF 0xF065 (fun op => .LD_Vx_mem (opX op)) ∧
  ∀ (x : Reg) (s : State),
    (s.i.toNat + x.val ≤ 4095 → ∃ t : State, exec (.LD_Vx_mem x) s = .next t ∧
      (∀ k : Reg, k ≤ x → t.reg k = s.byteAt (s.i.toNat + k.val)) ∧
      t.fault = s.fault ∧
      WriteSet.Respected { regs := (List.finRange 16).filter fun k => decide (k ≤ x) } s t) ∧
    (4095 < s.i.toNat + x.val →
      exec (.LD_Vx_mem x) s =
        .next { s with pc := s.pc - 2, fault := some { cause := .dataOob, info := s.i } })

/-- FX55 then FX65 with the same X and I is a round trip (49_family_F_misc.md R133): whatever happens to the registers
between, if I and the X + 1 bytes are the same the registers V0 to VX read back what was stored. -/
def Obligations.StoreThenLoadRoundTrip : Prop :=
  ∀ (x : Reg) (s t u : State), s.i.toNat + x.val ≤ 4095 → exec (.LD_mem_Vx x) s = .next t →
    u.i = s.i → (∀ a : Nat, s.i.toNat ≤ a → a ≤ s.i.toNat + x.val → u.byteAt a = t.byteAt a) →
    ∃ w : State, exec (.LD_Vx_mem x) u = .next w ∧ ∀ k : Reg, k ≤ x → w.reg k = s.reg k

/-- A store is seen by every later fetch with nothing in between (20_memory.md R43): after FX55 with X >= 1, a fetch at
any address I + k with k < X gives the word of Vk and Vk+1, the lower address as the high byte (20_memory.md R35). -/
def Obligations.StoreIsSeenByNextFetch : Prop :=
  ∀ (x k k' : Reg) (s t u : State), s.i.toNat + x.val ≤ 4095 → exec (.LD_mem_Vx x) s = .next t →
    k'.val = k.val + 1 → k' ≤ x → u.mem = t.mem → u.cfg = t.cfg → u.pc.toNat = s.i.toNat + k.val →
    ∃ op : Word, u.fetch = some op ∧ op.toNat = (s.reg k).toNat * 256 + (s.reg k').toNat

/-! ### Drawing -/

/-- DXYN (47_family_D_draw.md R115): with N = 0 or I + N - 1 <= 4095 every cell of the grid under a set sprite bit is
flipped and every other cell is as before, VF is 1 exactly when a flipped cell held 1, and nothing else changes, I and
memory neither; else it raises Fault(DATA_OOB, I). The origin is read before VF is cleared. -/
def Obligations.DrawResult : Prop :=
  DecodesTo 0xF000 0xD000 (fun op => .DRW (opX op) (opY op) (opN op)) ∧
  ∀ (x y : Reg) (n : BitVec 4) (s : State),
    ((n.toNat = 0 ∨ s.i.toNat + n.toNat - 1 ≤ 4095) → ∃ t : State, exec (.DRW x y n) s = .next t ∧
      (∀ px py : Nat, px < 64 → py < 32 → t.cell px py = (s.cell px py != s.spriteBit x y n px py)) ∧
      (t.reg VF = 0 ∨ t.reg VF = 1) ∧
      (t.reg VF = 1 ↔
        ∃ px py : Nat, px < 64 ∧ py < 32 ∧ s.spriteBit x y n px py = true ∧ s.cell px py = true) ∧
      t.fault = s.fault ∧ WriteSet.Respected { regs := [VF], screen := true } s t) ∧
    (1 ≤ n.toNat → 4095 < s.i.toNat + n.toNat - 1 →
      exec (.DRW x y n) s = .next { s with pc := s.pc - 2, fault := some { cause := .dataOob, info := s.i } })

/-- Drawing is an involution (47_family_D_draw.md R116 (1), (2)): the same DXYN again, with the same origin, I and sprite
bytes on the framebuffer the first left, restores the framebuffer, and reports a collision exactly when some cell under
a set sprite bit was 0 before the first draw. -/
def Obligations.DrawTwiceRestoresFramebuffer : Prop :=
  ∀ (x y : Reg) (n : BitVec 4) (s t u : State),
    (n.toNat = 0 ∨ s.i.toNat + n.toNat - 1 ≤ 4095) → exec (.DRW x y n) s = .next t →
    u.fb = t.fb → u.i = s.i → u.reg x = s.reg x → u.reg y = s.reg y →
    (∀ a : Nat, s.i.toNat ≤ a → a < s.i.toNat + n.toNat → u.byteAt a = s.byteAt a) →
    ∃ w : State, exec (.DRW x y n) u = .next w ∧ w.fb = s.fb ∧
      (w.reg VF = 1 ↔
        ∃ px py : Nat, px < 64 ∧ py < 32 ∧ s.spriteBit x y n px py = true ∧ s.cell px py = false)

/-! ### No-op words -/

/-- A word that selects no instruction executes as NOP (30_encoding.md R55): after the fetch and the advance of PC by 2
nothing else changes, up to the inputs of the next STEP (log entry 2). -/
def Obligations.UnselectedWordsAreNoOps : Prop :=
  (∀ (op : Word) (s : State), exec (.NOP op) s = .next s) ∧
  ∀ (s : State) (op : Word), s.loaded = true → s.fault = none → s.pc.toNat ≤ 4094 →
    op.toNat = (s.byteAt s.pc.toNat).toNat * 256 + (s.byteAt (s.pc.toNat + 1)).toNat →
    selectsNothing s.cfg op = true →
    ∃ t : State, step s = .next t ∧ t = { s with pc := s.pc + 2, inputs := t.inputs }

/-! ### Invariants and transactions -/

/-- Every STEP keeps the invariants of 10_state.md R25 and memory's canonical form, from every state that has them. -/
def Obligations.StepKeepsInvariant : Prop :=
  ∀ s t : State, s.Inv → step s = .next t → t.Inv

/-- The state after reset has the invariants. -/
def Obligations.ResetMeetsInvariant : Prop := State.reset.Inv

/-- In every state reachable from RESET by any sequence of transactions the invariants of 10_state.md R25 hold (those the
field types do not already give), and every such sequence can be served. -/
def Obligations.ReachableStatesMeetInvariant : Prop :=
  ∀ (ts : List Transaction) (s : State), ∃ t : State, runSchedule (.reset :: ts) s = .next t ∧ t.Inv

/-- RESET from any state at all (70_reset_and_hazards.md R170, R171): every item takes the value of 10_state.md R27. The
parameters and the inputs are no state and stay (log entry 13). -/
def Obligations.ResetGivesResetValues : Prop :=
  ∀ s : State, ∃ t : State, transact .reset s = .next t ∧
    (∀ r : Reg, t.reg r = 0) ∧ t.i = 0 ∧ t.pc = 0x200 ∧ (∀ k : Fin 16, t.stk[k] = 0) ∧ t.sp.val = 0 ∧
    t.dt = 0 ∧ t.st = 0 ∧
    (∀ a : Nat, ∀ h : a < 80, t.byteAt a = s.cfg.glyphs[a]) ∧
    (∀ a : Nat, 80 ≤ a → a < 4096 → t.byteAt a = 0) ∧
    (∀ x y : Nat, t.cell x y = false) ∧ t.loaded = false ∧ t.fault = none ∧ t.soundOn = false ∧
    t.cfg = s.cfg ∧ t.inputs = s.inputs

/-- A LOAD of at most 3584 readable bytes succeeds (70_reset_and_hazards.md R172): byte i goes to 0x200 + i, LOADED
becomes true, `load_ok` is true, and nothing else changes. -/
def Obligations.LoadSucceeds : Prop :=
  ∀ (bytes : List Byte) (s : State), bytes.length ≤ 3584 →
    ∃ t : State, transact (.load (some bytes)) s = .next t ∧ s.applyLoad (some bytes) = (t, true) ∧
      (∀ k : Nat, ∀ h : k < bytes.length, t.byteAt (0x200 + k) = bytes[k]) ∧
      (∀ a : Nat, ¬ (0x200 ≤ a ∧ a < 0x200 + bytes.length) → t.byteAt a = s.byteAt a) ∧
      t.loaded = true ∧ t = { s with mem := t.mem, loaded := true }

/-- A LOAD that cannot be read or is longer than 3584 bytes fails and leaves the whole state as it was
(70_reset_and_hazards.md R173). -/
def Obligations.LoadFailureChangesNothing : Prop :=
  ∀ s : State,
    (transact (.load none) s = .next s ∧ s.applyLoad none = (s, false)) ∧
    ∀ bytes : List Byte, 3584 < bytes.length →
      transact (.load (some bytes)) s = .next s ∧ s.applyLoad (some bytes) = (s, false)

/-- TICK (60_exceptions.md R150): each timer falls by 1, floored at 0, and nothing else changes, whatever LOADED and
FAULT are. -/
def Obligations.TickDecrementsBothTimers : Prop :=
  ∀ s : State, ∃ t : State, transact .tick s = .next t ∧
    t.dt.toNat = s.dt.toNat - 1 ∧ t.st.toNat = s.st.toNat - 1 ∧ t = { s with dt := t.dt, st := t.st }

/-- With no program writing them, after n TICKs each timer has fallen by n, floored at 0 (60_exceptions.md R151): a
timer set to v reaches 0 after exactly v TICKs. -/
def Obligations.TimersRunDownByTicks : Prop :=
  ∀ (n : Nat) (s : State), ∃ t : State, runSchedule (List.replicate n .tick) s = .next t ∧
    t.dt.toNat = s.dt.toNat - n ∧ t.st.toNat = s.st.toNat - n ∧ t = { s with dt := t.dt, st := t.st }

/-- Only RESET clears the FAULT latch, and it keeps the first fault for good (60_exceptions.md R141, R147): every other
transaction leaves a set latch as it is, and a STEP then changes nothing but the inputs the host drives. -/
def Obligations.OnlyResetClearsFault : Prop :=
  ∀ (tr : Transaction) (s : State) (r : FaultRecord), s.fault = some r → tr ≠ .reset →
    ∃ t : State, transact tr s = .next t ∧ t.fault = some r ∧
      ∀ (keys : BitVec 16) (rnd : Byte), tr = .step keys rnd → t = s.withInputs keys rnd

/-- LOADED changes only by RESET and by a successful LOAD (10_state.md R20): no STEP, no TICK and no failed LOAD changes
it. -/
def Obligations.LoadedChangesOnlyByLoadAndReset : Prop :=
  ∀ (tr : Transaction) (s t : State), transact tr s = .next t → t.loaded ≠ s.loaded →
    (tr = .reset ∧ t.loaded = false) ∨
      ∃ bytes : List Byte, tr = .load (some bytes) ∧ bytes.length ≤ 3584 ∧ t.loaded = true

/-- No transaction changes the parameters SUB0, SUBE and GLYPHS (00_scope.md R4: they are parameters, not state). -/
def Obligations.ParametersNeverChange : Prop :=
  ∀ (ts : List Transaction) (s t : State), runSchedule ts s = .next t → t.cfg = s.cfg

/-- A parked state is a fixed point of STEP for every `keys` and `rnd` (70_reset_and_hazards.md R180), up to the inputs
of the next STEP, and stays parked. -/
def Obligations.ParkedIsFixedPointOfStep : Prop :=
  ∀ (s : State) (keys : BitVec 16) (rnd : Byte), s.parked →
    ∃ t : State, transact (.step keys rnd) s = .next t ∧ t = { s with inputs := t.inputs } ∧ t.parked

/-- Booting (70_reset_and_hazards.md R174): after RESET and a LOAD of at least two and at most 3584 bytes, the next STEP
runs the instruction of the first two bytes, high byte first, from address 0x200. -/
def Obligations.BootRunsFirstTwoBytes : Prop :=
  ∀ (hi lo : Byte) (image : List Byte) (s : State), image.length + 2 ≤ 3584 →
    ∃ t : State, runSchedule (boot (hi :: lo :: image)) s = .next t ∧
      ∀ (keys : BitVec 16) (rnd : Byte) (op : Word), op.toNat = hi.toNat * 256 + lo.toNat →
        transact (.step keys rnd) t =
          mapNext State.nextInputs
            (exec (decodeWord s.cfg op) { t.withInputs keys rnd with pc := 0x202 })

/-- The outputs are functions of the state (10_state.md R23): bit y*64 + x of `fb_out` is the cell in column x, row y;
`sound_on` is ST > 0; `loaded` is LOADED; `fault` is the latch with the cause as its code. -/
def Obligations.OutputsFollowState : Prop :=
  ∀ s : State,
    (∀ x y : Nat, x < 64 → y < 32 → s.fbOut.getLsbD (y * 64 + x) = s.cell x y) ∧
    (s.soundOn = true ↔ s.st.toNat > 0) ∧ s.loadedOut = s.loaded ∧
    (s.fault = none → s.faultOut = none) ∧
    (∀ r : FaultRecord, s.fault = some r → s.faultOut = some (r.cause.code, r.info))
end

