-- ==== Sys2Proof/Laws/Draw.lean ====
section
/-! SUPPORT. What a draw does to one cell and to the collision mark: one pixel, one row, all rows (47_family_D_draw.md
R115). -/

namespace Sys2Proof.Machine

/-- Two cells of the grid have the same index exactly when they are the same cell. -/
theorem cellIndex_inj {x y px py : Nat} (hx : x < 64) (hp : px < 64) :
    y * 64 + x = py * 64 + px ↔ y = py ∧ x = px := by omega

/-- A set bit flips its own cell, if that lies in the grid, and no other. -/
theorem drawPixel_cell (px py : Nat) (c : Canvas) {x y : Nat} (hx : x < 64) (hy : y < 32) :
    (drawPixel px py c).fb.getLsbD (y * 64 + x) =
      (c.fb.getLsbD (y * 64 + x) ^^ decide (y = py ∧ x = px)) := by
  unfold drawPixel
  split
  · rename_i h
    have hb : py * 64 + px < 2048 := by omega
    have := cellIndex_inj (x := x) (y := y) (px := px) (py := py) hx (by omega)
    simp only [BitVec.getLsbD_xor, BitVec.getLsbD_twoPow]
    congr 1
    simp only [hb, decide_true, Bool.true_and]
    exact decide_eq_decide.mpr (by rw [← this]; exact eq_comm)
  · rename_i h
    have : ¬ (y = py ∧ x = px) := by omega
    simp [this]

theorem drawPixel_hit (px py : Nat) (c : Canvas) :
    (drawPixel px py c).hit = true ↔
      c.hit = true ∨ (px ≤ 63 ∧ py ≤ 31 ∧ c.fb.getLsbD (py * 64 + px) = true) := by
  unfold drawPixel
  split
  · rename_i h; simp [h.1, h.2]
  · rename_i h
    constructor
    · exact Or.inl
    · rintro (h' | ⟨h1, h2, -⟩)
      · exact h'
      · exact absurd ⟨h1, h2⟩ h

/-- The first `n` columns of a row. -/
def drawCols (x0 py : Nat) (b : Byte) (c : Canvas) (n : Nat) : Canvas :=
  (List.range n).foldl (fun c col => if b.getLsbD (7 - col) then drawPixel (x0 + col) py c else c) c

theorem drawCols_succ (x0 py : Nat) (b : Byte) (c : Canvas) (n : Nat) :
    drawCols x0 py b c (n + 1) =
      if b.getLsbD (7 - n) then drawPixel (x0 + n) py (drawCols x0 py b c n) else drawCols x0 py b c n := by
  simp only [drawCols, List.range_succ, List.foldl_append, List.foldl_cons, List.foldl_nil]

theorem drawRow_eq_drawCols (x0 py : Nat) (b : Byte) (c : Canvas) : drawRow x0 py b c = drawCols x0 py b c 8 := rfl

theorem drawCols_cell (x0 py : Nat) (b : Byte) (c : Canvas) (n : Nat) {x y : Nat} (hx : x < 64) (hy : y < 32) :
    (drawCols x0 py b c n).fb.getLsbD (y * 64 + x) =
      (c.fb.getLsbD (y * 64 + x) ^^ (decide (y = py ∧ x0 ≤ x ∧ x < x0 + n) && b.getLsbD (7 - (x - x0)))) := by
  induction n with
  | zero =>
    have : ¬ (y = py ∧ x0 ≤ x ∧ x < x0 + 0) := by omega
    rw [decide_eq_false this]
    simp [drawCols]
  | succ n ih =>
    rw [drawCols_succ]
    by_cases hc : y = py ∧ x = x0 + n
    · obtain ⟨rfl, rfl⟩ := hc
      have h1 : ¬ (y = y ∧ x0 ≤ x0 + n ∧ x0 + n < x0 + n) := by omega
      have h2 : y = y ∧ x0 ≤ x0 + n ∧ x0 + n < x0 + (n + 1) := by omega
      rw [decide_eq_false h1] at ih
      rw [decide_eq_true h2, Nat.add_sub_cancel_left]
      split
      · rename_i hb; rw [drawPixel_cell _ _ _ hx hy, ih]; simp [hb]
      · rename_i hb; rw [ih]; simp [hb]
    · have h1 : (y = py ∧ x0 ≤ x ∧ x < x0 + (n + 1)) ↔ (y = py ∧ x0 ≤ x ∧ x < x0 + n) := by omega
      rw [decide_eq_decide.mpr h1, ← ih]
      split
      · rw [drawPixel_cell _ _ _ hx hy, decide_eq_false hc]; simp
      · rfl

theorem drawCols_hit (x0 py : Nat) (b : Byte) (c : Canvas) (n : Nat) :
    (drawCols x0 py b c n).hit = true ↔
      c.hit = true ∨ ∃ col, col < n ∧ b.getLsbD (7 - col) = true ∧ x0 + col ≤ 63 ∧ py ≤ 31 ∧
        c.fb.getLsbD (py * 64 + (x0 + col)) = true := by
  induction n with
  | zero => simp [drawCols]
  | succ n ih =>
    rw [drawCols_succ]
    have split_last : (∃ col, col < n + 1 ∧ b.getLsbD (7 - col) = true ∧ x0 + col ≤ 63 ∧ py ≤ 31 ∧
        c.fb.getLsbD (py * 64 + (x0 + col)) = true) ↔
        (∃ col, col < n ∧ b.getLsbD (7 - col) = true ∧ x0 + col ≤ 63 ∧ py ≤ 31 ∧
          c.fb.getLsbD (py * 64 + (x0 + col)) = true) ∨
        (b.getLsbD (7 - n) = true ∧ x0 + n ≤ 63 ∧ py ≤ 31 ∧ c.fb.getLsbD (py * 64 + (x0 + n)) = true) := by
      constructor
      · rintro ⟨col, h1, h2⟩
        rcases Nat.lt_succ_iff_lt_or_eq.mp h1 with h | rfl
        · exact Or.inl ⟨col, h, h2⟩
        · exact Or.inr h2
      · rintro (⟨col, h1, h2⟩ | h)
        · exact ⟨col, by omega, h2⟩
        · exact ⟨n, by omega, h⟩
    rw [split_last, ← or_assoc, ← ih]
    split
    · rename_i hb
      rw [drawPixel_hit]
      refine or_congr Iff.rfl ?_
      constructor
      · rintro ⟨h1, h2, h3⟩
        refine ⟨hb, h1, h2, ?_⟩
        rw [drawCols_cell _ _ _ _ _ (by omega) (by omega),
          decide_eq_false (by omega : ¬ (py = py ∧ x0 ≤ x0 + n ∧ x0 + n < x0 + n))] at h3
        simpa using h3
      · rintro ⟨-, h1, h2, h3⟩
        refine ⟨h1, h2, ?_⟩
        rw [drawCols_cell _ _ _ _ _ (by omega) (by omega),
          decide_eq_false (by omega : ¬ (py = py ∧ x0 ≤ x0 + n ∧ x0 + n < x0 + n))]
        simpa using h3
    · rename_i hb; simp [hb]

/-- All rows: the cell in column x, row y flips exactly when the sprite byte of its row has a set bit over it. -/
theorem drawRows_cell (x0 py : Nat) (bs : List Byte) (c : Canvas) {x y : Nat} (hx : x < 64) (hy : y < 32) :
    (drawRows x0 py bs c).fb.getLsbD (y * 64 + x) =
      (c.fb.getLsbD (y * 64 + x) ^^
        (decide (x0 ≤ x ∧ x < x0 + 8 ∧ py ≤ y ∧ y < py + bs.length) &&
          (bs.getD (y - py) 0).getLsbD (7 - (x - x0)))) := by
  induction bs generalizing py c with
  | nil =>
    have : ¬ (x0 ≤ x ∧ x < x0 + 8 ∧ py ≤ y ∧ y < py + ([] : List Byte).length) := by
      simp only [List.length_nil]; omega
    rw [decide_eq_false this]
    simp [drawRows]
  | cons b bs ih =>
    rw [drawRows, ih, drawRow_eq_drawCols, drawCols_cell _ _ _ _ _ hx hy, Bool.xor_assoc]
    congr 1
    simp only [List.length_cons]
    by_cases h : y = py
    · subst h
      have h1 : ¬ (x0 ≤ x ∧ x < x0 + 8 ∧ y + 1 ≤ y ∧ y < y + 1 + bs.length) := by omega
      have h2 : (x0 ≤ x ∧ x < x0 + 8 ∧ y ≤ y ∧ y < y + (bs.length + 1)) ↔ (y = y ∧ x0 ≤ x ∧ x < x0 + 8) := by omega
      have e : decide (x0 ≤ x ∧ x < x0 + 8 ∧ y ≤ y ∧ y < y + (bs.length + 1)) =
          decide (y = y ∧ x0 ≤ x ∧ x < x0 + 8) := decide_eq_decide.mpr h2
      rw [decide_eq_false h1, e]
      simp
    · have h1 : ¬ (y = py ∧ x0 ≤ x ∧ x < x0 + 8) := by omega
      have h2 : (x0 ≤ x ∧ x < x0 + 8 ∧ py + 1 ≤ y ∧ y < py + 1 + bs.length) ↔
          (x0 ≤ x ∧ x < x0 + 8 ∧ py ≤ y ∧ y < py + (bs.length + 1)) := by omega
      rw [decide_eq_false h1, decide_eq_decide.mpr h2]
      by_cases h3 : py ≤ y
      · have : y - py = (y - (py + 1)) + 1 := by omega
        simp [this]
      · have : ¬ (x0 ≤ x ∧ x < x0 + 8 ∧ py ≤ y ∧ y < py + (bs.length + 1)) := by omega
        rw [decide_eq_false this]
        simp

/-- All rows: the collision mark is set exactly when it was, or some drawn cell was 1 before. -/
theorem drawRows_hit (x0 py : Nat) (bs : List Byte) (c : Canvas) :
    (drawRows x0 py bs c).hit = true ↔
      c.hit = true ∨ ∃ row col, row < bs.length ∧ col < 8 ∧ (bs.getD row 0).getLsbD (7 - col) = true ∧
        x0 + col ≤ 63 ∧ py + row ≤ 31 ∧ c.fb.getLsbD ((py + row) * 64 + (x0 + col)) = true := by
  induction bs generalizing py c with
  | nil => simp [drawRows]
  | cons b bs ih =>
    rw [drawRows, ih, drawRow_eq_drawCols, drawCols_hit, or_assoc]
    refine or_congr Iff.rfl ?_
    constructor
    · rintro (⟨col, h1, h2, h3, h4, h5⟩ | ⟨row, col, h1, h2, h3, h4, h5, h6⟩)
      · exact ⟨0, col, by simp, h1, by simpa using h2, h3, by omega, by simpa using h5⟩
      · refine ⟨row + 1, col, by simpa using h1, h2, by simpa using h3, h4, by omega, ?_⟩
        rw [drawCols_cell _ _ _ _ _ (by omega) (by omega),
          decide_eq_false (by omega : ¬ (py + 1 + row = py ∧ x0 ≤ x0 + col ∧ x0 + col < x0 + 8))] at h6
        have : py + (row + 1) = py + 1 + row := by omega
        rw [this]
        simpa using h6
    · rintro ⟨row, col, h1, h2, h3, h4, h5, h6⟩
      cases row with
      | zero => exact Or.inl ⟨col, h2, by simpa using h3, h4, by omega, by simpa using h6⟩
      | succ row =>
        refine Or.inr ⟨row, col, by simpa using h1, h2, by simpa using h3, h4, by omega, ?_⟩
        rw [drawCols_cell _ _ _ _ _ (by omega) (by omega),
          decide_eq_false (by omega : ¬ (py + 1 + row = py ∧ x0 ≤ x0 + col ∧ x0 + col < x0 + 8))]
        have : py + (row + 1) = py + 1 + row := by omega
        rw [this] at h6
        simpa using h6

end Sys2Proof.Machine
end

