-- ==== Sys2Proof/Laws/Memory.lean ====
section
/-! SUPPORT. The laws of memory: a read after a write, and that every operation keeps the canonical form. -/

namespace Sys2Proof.Machine

variable (c : Config)

/-! ### Reads after writes -/

theorem Mem.find_put (m : Mem) (a : Nat) (b : Byte) (x : Nat) :
    Mem.find (Mem.put a b m) x = if x = a then some b else Mem.find m x := by
  induction m with
  | nil => simp only [Mem.put, Mem.find, eq_comm]
  | cons cell m ih =>
    obtain ⟨k, w⟩ := cell
    simp only [Mem.put]
    split
    · simp only [Mem.find, eq_comm]
    · split
      next h =>
        subst h
        by_cases h : x = a
        · simp [Mem.find, h]
        · simp [Mem.find, h, Ne.symm h]
      next h =>
        simp only [Mem.find, ih]
        by_cases hk : k = x
        · subst hk; rw [if_pos rfl, if_pos rfl, if_neg (by omega)]
        · rw [if_neg hk, if_neg hk]

theorem Mem.find_drop (m : Mem) (a x : Nat) :
    Mem.find (Mem.drop a m) x = if x = a then none else Mem.find m x := by
  induction m with
  | nil => simp [Mem.drop, Mem.find]
  | cons cell m ih =>
    obtain ⟨k, w⟩ := cell
    simp only [Mem.drop, Mem.find]
    split
    · subst_vars
      rw [ih]
      by_cases h : x = k
      · simp [h]
      · rw [if_neg h, if_neg h, if_neg (Ne.symm h)]
    · simp only [Mem.find, ih]
      by_cases h : k = x
      · subst h; rw [if_pos rfl, if_pos rfl, if_neg (by assumption)]
      · rw [if_neg h, if_neg h]

/-- A read gives the latest byte written to that address, and a write leaves every other address alone. -/
theorem Mem.read_write (m : Mem) (a : Nat) (b : Byte) (x : Nat) :
    Mem.read c (Mem.write c m a b) x = if x = a then b else Mem.read c m x := by
  unfold Mem.read Mem.write
  by_cases h : b = Mem.initial c a
  · rw [if_pos h, Mem.find_drop]
    by_cases hx : x = a
    · subst hx; simp [h]
    · simp [hx]
  · rw [if_neg h, Mem.find_put]
    by_cases hx : x = a <;> simp [hx]

/-- After writing a list of bytes each stored address holds its byte and every other address what it held. -/
theorem Mem.read_writeList (m : Mem) (a : Nat) (bs : List Byte) (x : Nat) :
    Mem.read c (Mem.writeList c m a bs) x =
      if h : a ≤ x ∧ x < a + bs.length then bs[x - a] else Mem.read c m x := by
  induction bs generalizing m a with
  | nil => rw [dif_neg (by simp only [List.length_nil]; omega)]; rfl
  | cons b bs ih =>
    rw [Mem.writeList, ih]
    simp only [List.length_cons]
    by_cases h : x = a
    · subst h
      have h1 : ¬ (x + 1 ≤ x ∧ x < x + 1 + bs.length) := by omega
      have h2 : x ≤ x ∧ x < x + (bs.length + 1) := by omega
      rw [dif_neg h1, dif_pos h2, Mem.read_write, if_pos rfl]
      simp
    · by_cases h1 : a + 1 ≤ x ∧ x < a + 1 + bs.length
      · have h2 : a ≤ x ∧ x < a + (bs.length + 1) := by omega
        rw [dif_pos h1, dif_pos h2]
        have : x - a = (x - (a + 1)) + 1 := by omega
        simp [this]
      · have h2 : ¬ (a ≤ x ∧ x < a + (bs.length + 1)) := by omega
        rw [dif_neg h1, dif_neg h2, Mem.read_write, if_neg h]

@[simp] theorem Mem.readList_length (m : Mem) (a n : Nat) : (Mem.readList c m a n).length = n := by
  induction n generalizing a with
  | zero => rfl
  | succ n ih => simp [Mem.readList, ih]

theorem Mem.readList_getElem (m : Mem) (a n k : Nat) (h : k < (Mem.readList c m a n).length) :
    (Mem.readList c m a n)[k] = Mem.read c m (a + k) := by
  induction n generalizing a k with
  | zero => simp [Mem.readList] at h
  | succ n ih =>
    cases k with
    | zero => rfl
    | succ k =>
      simp only [Mem.readList, List.getElem_cons_succ]
      rw [ih]
      congr 1
      omega

theorem State.storeBytes_byteAt (s : State) (a : Nat) (bs : List Byte) (x : Nat) :
    (s.storeBytes a bs).byteAt x = if h : a ≤ x ∧ x < a + bs.length then bs[x - a] else s.byteAt x :=
  Mem.read_writeList s.cfg s.mem a bs x

/-! ### The canonical form -/

theorem Mem.wfFrom_cons (lo k : Nat) (b : Byte) (m : Mem) :
    Mem.wfFrom c lo ((k, b) :: m) = true ↔
      lo ≤ k ∧ k < 4096 ∧ b ≠ Mem.initial c k ∧ Mem.wfFrom c (k + 1) m = true := by
  simp [Mem.wfFrom, and_assoc]

theorem Mem.wfFrom_mono {lo lo' : Nat} (h : lo' ≤ lo) (m : Mem) (hm : Mem.wfFrom c lo m = true) :
    Mem.wfFrom c lo' m = true := by
  cases m with
  | nil => rfl
  | cons cell m =>
    obtain ⟨k, b⟩ := cell
    rw [Mem.wfFrom_cons] at hm ⊢
    exact ⟨by omega, hm.2⟩

theorem Mem.wfFrom_put {lo a : Nat} {b : Byte} (m : Mem) (hm : Mem.wfFrom c lo m = true) (hlo : lo ≤ a)
    (ha : a < 4096) (hb : b ≠ Mem.initial c a) : Mem.wfFrom c lo (Mem.put a b m) = true := by
  induction m generalizing lo with
  | nil => rw [Mem.put, Mem.wfFrom_cons]; exact ⟨hlo, ha, hb, rfl⟩
  | cons cell m ih =>
    obtain ⟨k, w⟩ := cell
    rw [Mem.wfFrom_cons] at hm
    obtain ⟨h1, h2, h3, h4⟩ := hm
    simp only [Mem.put]
    split
    · rw [Mem.wfFrom_cons, Mem.wfFrom_cons]; exact ⟨hlo, ha, hb, by omega, h2, h3, h4⟩
    · split
      · subst_vars; rw [Mem.wfFrom_cons]; exact ⟨hlo, ha, hb, h4⟩
      · rw [Mem.wfFrom_cons]; exact ⟨h1, h2, h3, ih h4 (by omega)⟩

theorem Mem.wfFrom_drop {lo a : Nat} (m : Mem) (hm : Mem.wfFrom c lo m = true) :
    Mem.wfFrom c lo (Mem.drop a m) = true := by
  induction m generalizing lo with
  | nil => rfl
  | cons cell m ih =>
    obtain ⟨k, w⟩ := cell
    rw [Mem.wfFrom_cons] at hm
    obtain ⟨h1, h2, h3, h4⟩ := hm
    simp only [Mem.drop]
    split
    · exact ih (Mem.wfFrom_mono c (by omega) m h4)
    · rw [Mem.wfFrom_cons]; exact ⟨h1, h2, h3, ih h4⟩

theorem Mem.wf_write {m : Mem} {a : Nat} (b : Byte) (hm : Mem.wf c m = true) (ha : a < 4096) :
    Mem.wf c (Mem.write c m a b) = true := by
  unfold Mem.wf Mem.write at *
  split
  · exact Mem.wfFrom_drop c m hm
  · exact Mem.wfFrom_put c m hm (Nat.zero_le a) ha (by assumption)

/-- Writing bytes that all exist keeps the canonical form. -/
theorem Mem.wf_writeList {m : Mem} {a : Nat} (bs : List Byte) (hm : Mem.wf c m = true)
    (h : a + bs.length ≤ 4096) : Mem.wf c (Mem.writeList c m a bs) = true := by
  induction bs generalizing m a with
  | nil => exact hm
  | cons b bs ih =>
    simp only [List.length_cons] at h
    exact ih (Mem.wf_write c b hm (by omega)) (by omega)

/-- Two cells lists in canonical form that read alike everywhere are equal: equal memories are equal data. -/
theorem Mem.find_of_wfFrom {lo : Nat} {m : Mem} (hm : Mem.wfFrom c lo m = true) {x : Nat} (h : x < lo) :
    Mem.find m x = none := by
  induction m generalizing lo with
  | nil => rfl
  | cons cell m ih =>
    obtain ⟨k, w⟩ := cell
    rw [Mem.wfFrom_cons] at hm
    rw [Mem.find, if_neg (by omega)]
    exact ih hm.2.2.2 (by omega)

theorem Mem.ext_of_wfFrom {lo : Nat} {m m' : Mem} (hm : Mem.wfFrom c lo m = true) (hm' : Mem.wfFrom c lo m' = true)
    (h : ∀ x, lo ≤ x → Mem.read c m x = Mem.read c m' x) : m = m' := by
  induction m generalizing lo m' with
  | nil =>
    cases m' with
    | nil => rfl
    | cons cell' m' =>
      obtain ⟨k', w'⟩ := cell'
      rw [Mem.wfFrom_cons] at hm'
      have := h k' hm'.1
      simp [Mem.read, Mem.find] at this
      exact absurd this.symm hm'.2.2.1
  | cons cell m ih =>
    obtain ⟨k, w⟩ := cell
    rw [Mem.wfFrom_cons] at hm
    obtain ⟨h1, h2, h3, h4⟩ := hm
    cases m' with
    | nil =>
      have := h k h1
      simp [Mem.read, Mem.find] at this
      exact absurd this h3
    | cons cell' m' =>
      obtain ⟨k', w'⟩ := cell'
      rw [Mem.wfFrom_cons] at hm'
      obtain ⟨h1', h2', h3', h4'⟩ := hm'
      rcases Nat.lt_trichotomy k k' with hlt | heq | hgt
      · have := h k h1
        rw [Mem.read, Mem.read, Mem.find, if_pos rfl, Mem.find, if_neg (by omega),
          Mem.find_of_wfFrom c h4' (by omega)] at this
        exact absurd this h3
      · subst heq
        have hw : w = w' := by simpa [Mem.read, Mem.find] using h k h1
        subst hw
        congr 1
        refine ih h4 h4' fun x hx => ?_
        have := h x (by omega)
        rwa [Mem.read, Mem.read, Mem.find, if_neg (by omega), Mem.find, if_neg (by omega)] at this
      · have := h k' h1'
        rw [Mem.read, Mem.read, Mem.find, if_neg (by omega), Mem.find_of_wfFrom c h4 (by omega), Mem.find,
          if_pos rfl] at this
        exact absurd this.symm h3'

/-- Equal memories are equal lists. -/
theorem Mem.ext_of_wf {m m' : Mem} (hm : Mem.wf c m = true) (hm' : Mem.wf c m' = true)
    (h : ∀ x, Mem.read c m x = Mem.read c m' x) : m = m' :=
  Mem.ext_of_wfFrom c hm hm' fun x _ => h x

end Sys2Proof.Machine
end

