-- ==== Sys2Proof/Laws/State.lean ====
section
/-! SUPPORT. One lemma per field per update of `State`, and what the read functions `reg` and `byteAt` give after each
update, so that no later proof unfolds a record update. -/

namespace Sys2Proof.Machine

variable (s : State)

/-! ### setReg -/

@[simp] theorem State.setReg_cfg (x : Reg) (b : Byte) : (s.setReg x b).cfg = s.cfg := rfl
@[simp] theorem State.setReg_v (x : Reg) (b : Byte) : (s.setReg x b).v = s.v.set x b := rfl
@[simp] theorem State.setReg_i (x : Reg) (b : Byte) : (s.setReg x b).i = s.i := rfl
@[simp] theorem State.setReg_pc (x : Reg) (b : Byte) : (s.setReg x b).pc = s.pc := rfl
@[simp] theorem State.setReg_stk (x : Reg) (b : Byte) : (s.setReg x b).stk = s.stk := rfl
@[simp] theorem State.setReg_sp (x : Reg) (b : Byte) : (s.setReg x b).sp = s.sp := rfl
@[simp] theorem State.setReg_dt (x : Reg) (b : Byte) : (s.setReg x b).dt = s.dt := rfl
@[simp] theorem State.setReg_st (x : Reg) (b : Byte) : (s.setReg x b).st = s.st := rfl
@[simp] theorem State.setReg_fb (x : Reg) (b : Byte) : (s.setReg x b).fb = s.fb := rfl
@[simp] theorem State.setReg_mem (x : Reg) (b : Byte) : (s.setReg x b).mem = s.mem := rfl
@[simp] theorem State.setReg_loaded (x : Reg) (b : Byte) : (s.setReg x b).loaded = s.loaded := rfl
@[simp] theorem State.setReg_fault (x : Reg) (b : Byte) : (s.setReg x b).fault = s.fault := rfl
@[simp] theorem State.setReg_inputs (x : Reg) (b : Byte) : (s.setReg x b).inputs = s.inputs := rfl
@[simp] theorem State.setReg_byteAt (x : Reg) (b : Byte) (p : Nat) : (s.setReg x b).byteAt p = s.byteAt p := rfl

/-! ### setI -/

@[simp] theorem State.setI_cfg (w : Word) : (s.setI w).cfg = s.cfg := rfl
@[simp] theorem State.setI_v (w : Word) : (s.setI w).v = s.v := rfl
@[simp] theorem State.setI_i (w : Word) : (s.setI w).i = w := rfl
@[simp] theorem State.setI_pc (w : Word) : (s.setI w).pc = s.pc := rfl
@[simp] theorem State.setI_stk (w : Word) : (s.setI w).stk = s.stk := rfl
@[simp] theorem State.setI_sp (w : Word) : (s.setI w).sp = s.sp := rfl
@[simp] theorem State.setI_dt (w : Word) : (s.setI w).dt = s.dt := rfl
@[simp] theorem State.setI_st (w : Word) : (s.setI w).st = s.st := rfl
@[simp] theorem State.setI_fb (w : Word) : (s.setI w).fb = s.fb := rfl
@[simp] theorem State.setI_mem (w : Word) : (s.setI w).mem = s.mem := rfl
@[simp] theorem State.setI_loaded (w : Word) : (s.setI w).loaded = s.loaded := rfl
@[simp] theorem State.setI_fault (w : Word) : (s.setI w).fault = s.fault := rfl
@[simp] theorem State.setI_inputs (w : Word) : (s.setI w).inputs = s.inputs := rfl
@[simp] theorem State.setI_reg (w : Word) (r : Reg) : (s.setI w).reg r = s.reg r := rfl
@[simp] theorem State.setI_byteAt (w : Word) (p : Nat) : (s.setI w).byteAt p = s.byteAt p := rfl

/-! ### setPc -/

@[simp] theorem State.setPc_cfg (w : Word) : (s.setPc w).cfg = s.cfg := rfl
@[simp] theorem State.setPc_v (w : Word) : (s.setPc w).v = s.v := rfl
@[simp] theorem State.setPc_i (w : Word) : (s.setPc w).i = s.i := rfl
@[simp] theorem State.setPc_pc (w : Word) : (s.setPc w).pc = w := rfl
@[simp] theorem State.setPc_stk (w : Word) : (s.setPc w).stk = s.stk := rfl
@[simp] theorem State.setPc_sp (w : Word) : (s.setPc w).sp = s.sp := rfl
@[simp] theorem State.setPc_dt (w : Word) : (s.setPc w).dt = s.dt := rfl
@[simp] theorem State.setPc_st (w : Word) : (s.setPc w).st = s.st := rfl
@[simp] theorem State.setPc_fb (w : Word) : (s.setPc w).fb = s.fb := rfl
@[simp] theorem State.setPc_mem (w : Word) : (s.setPc w).mem = s.mem := rfl
@[simp] theorem State.setPc_loaded (w : Word) : (s.setPc w).loaded = s.loaded := rfl
@[simp] theorem State.setPc_fault (w : Word) : (s.setPc w).fault = s.fault := rfl
@[simp] theorem State.setPc_inputs (w : Word) : (s.setPc w).inputs = s.inputs := rfl
@[simp] theorem State.setPc_reg (w : Word) (r : Reg) : (s.setPc w).reg r = s.reg r := rfl
@[simp] theorem State.setPc_byteAt (w : Word) (p : Nat) : (s.setPc w).byteAt p = s.byteAt p := rfl

/-! ### setDt -/

@[simp] theorem State.setDt_cfg (b : Byte) : (s.setDt b).cfg = s.cfg := rfl
@[simp] theorem State.setDt_v (b : Byte) : (s.setDt b).v = s.v := rfl
@[simp] theorem State.setDt_i (b : Byte) : (s.setDt b).i = s.i := rfl
@[simp] theorem State.setDt_pc (b : Byte) : (s.setDt b).pc = s.pc := rfl
@[simp] theorem State.setDt_stk (b : Byte) : (s.setDt b).stk = s.stk := rfl
@[simp] theorem State.setDt_sp (b : Byte) : (s.setDt b).sp = s.sp := rfl
@[simp] theorem State.setDt_dt (b : Byte) : (s.setDt b).dt = b := rfl
@[simp] theorem State.setDt_st (b : Byte) : (s.setDt b).st = s.st := rfl
@[simp] theorem State.setDt_fb (b : Byte) : (s.setDt b).fb = s.fb := rfl
@[simp] theorem State.setDt_mem (b : Byte) : (s.setDt b).mem = s.mem := rfl
@[simp] theorem State.setDt_loaded (b : Byte) : (s.setDt b).loaded = s.loaded := rfl
@[simp] theorem State.setDt_fault (b : Byte) : (s.setDt b).fault = s.fault := rfl
@[simp] theorem State.setDt_inputs (b : Byte) : (s.setDt b).inputs = s.inputs := rfl
@[simp] theorem State.setDt_reg (b : Byte) (r : Reg) : (s.setDt b).reg r = s.reg r := rfl
@[simp] theorem State.setDt_byteAt (b : Byte) (p : Nat) : (s.setDt b).byteAt p = s.byteAt p := rfl

/-! ### setSt -/

@[simp] theorem State.setSt_cfg (b : Byte) : (s.setSt b).cfg = s.cfg := rfl
@[simp] theorem State.setSt_v (b : Byte) : (s.setSt b).v = s.v := rfl
@[simp] theorem State.setSt_i (b : Byte) : (s.setSt b).i = s.i := rfl
@[simp] theorem State.setSt_pc (b : Byte) : (s.setSt b).pc = s.pc := rfl
@[simp] theorem State.setSt_stk (b : Byte) : (s.setSt b).stk = s.stk := rfl
@[simp] theorem State.setSt_sp (b : Byte) : (s.setSt b).sp = s.sp := rfl
@[simp] theorem State.setSt_dt (b : Byte) : (s.setSt b).dt = s.dt := rfl
@[simp] theorem State.setSt_st (b : Byte) : (s.setSt b).st = b := rfl
@[simp] theorem State.setSt_fb (b : Byte) : (s.setSt b).fb = s.fb := rfl
@[simp] theorem State.setSt_mem (b : Byte) : (s.setSt b).mem = s.mem := rfl
@[simp] theorem State.setSt_loaded (b : Byte) : (s.setSt b).loaded = s.loaded := rfl
@[simp] theorem State.setSt_fault (b : Byte) : (s.setSt b).fault = s.fault := rfl
@[simp] theorem State.setSt_inputs (b : Byte) : (s.setSt b).inputs = s.inputs := rfl
@[simp] theorem State.setSt_reg (b : Byte) (r : Reg) : (s.setSt b).reg r = s.reg r := rfl
@[simp] theorem State.setSt_byteAt (b : Byte) (p : Nat) : (s.setSt b).byteAt p = s.byteAt p := rfl

/-! ### setFb -/

@[simp] theorem State.setFb_cfg (f : BitVec 2048) : (s.setFb f).cfg = s.cfg := rfl
@[simp] theorem State.setFb_v (f : BitVec 2048) : (s.setFb f).v = s.v := rfl
@[simp] theorem State.setFb_i (f : BitVec 2048) : (s.setFb f).i = s.i := rfl
@[simp] theorem State.setFb_pc (f : BitVec 2048) : (s.setFb f).pc = s.pc := rfl
@[simp] theorem State.setFb_stk (f : BitVec 2048) : (s.setFb f).stk = s.stk := rfl
@[simp] theorem State.setFb_sp (f : BitVec 2048) : (s.setFb f).sp = s.sp := rfl
@[simp] theorem State.setFb_dt (f : BitVec 2048) : (s.setFb f).dt = s.dt := rfl
@[simp] theorem State.setFb_st (f : BitVec 2048) : (s.setFb f).st = s.st := rfl
@[simp] theorem State.setFb_fb (f : BitVec 2048) : (s.setFb f).fb = f := rfl
@[simp] theorem State.setFb_mem (f : BitVec 2048) : (s.setFb f).mem = s.mem := rfl
@[simp] theorem State.setFb_loaded (f : BitVec 2048) : (s.setFb f).loaded = s.loaded := rfl
@[simp] theorem State.setFb_fault (f : BitVec 2048) : (s.setFb f).fault = s.fault := rfl
@[simp] theorem State.setFb_inputs (f : BitVec 2048) : (s.setFb f).inputs = s.inputs := rfl
@[simp] theorem State.setFb_reg (f : BitVec 2048) (r : Reg) : (s.setFb f).reg r = s.reg r := rfl
@[simp] theorem State.setFb_byteAt (f : BitVec 2048) (p : Nat) : (s.setFb f).byteAt p = s.byteAt p := rfl

/-! ### storeBytes -/

@[simp] theorem State.storeBytes_cfg (a : Nat) (bs : List Byte) : (s.storeBytes a bs).cfg = s.cfg := rfl
@[simp] theorem State.storeBytes_v (a : Nat) (bs : List Byte) : (s.storeBytes a bs).v = s.v := rfl
@[simp] theorem State.storeBytes_i (a : Nat) (bs : List Byte) : (s.storeBytes a bs).i = s.i := rfl
@[simp] theorem State.storeBytes_pc (a : Nat) (bs : List Byte) : (s.storeBytes a bs).pc = s.pc := rfl
@[simp] theorem State.storeBytes_stk (a : Nat) (bs : List Byte) : (s.storeBytes a bs).stk = s.stk := rfl
@[simp] theorem State.storeBytes_sp (a : Nat) (bs : List Byte) : (s.storeBytes a bs).sp = s.sp := rfl
@[simp] theorem State.storeBytes_dt (a : Nat) (bs : List Byte) : (s.storeBytes a bs).dt = s.dt := rfl
@[simp] theorem State.storeBytes_st (a : Nat) (bs : List Byte) : (s.storeBytes a bs).st = s.st := rfl
@[simp] theorem State.storeBytes_fb (a : Nat) (bs : List Byte) : (s.storeBytes a bs).fb = s.fb := rfl
@[simp] theorem State.storeBytes_mem (a : Nat) (bs : List Byte) : (s.storeBytes a bs).mem = Mem.writeList s.cfg s.mem a bs := rfl
@[simp] theorem State.storeBytes_loaded (a : Nat) (bs : List Byte) : (s.storeBytes a bs).loaded = s.loaded := rfl
@[simp] theorem State.storeBytes_fault (a : Nat) (bs : List Byte) : (s.storeBytes a bs).fault = s.fault := rfl
@[simp] theorem State.storeBytes_inputs (a : Nat) (bs : List Byte) : (s.storeBytes a bs).inputs = s.inputs := rfl
@[simp] theorem State.storeBytes_reg (a : Nat) (bs : List Byte) (r : Reg) : (s.storeBytes a bs).reg r = s.reg r := rfl

/-! ### latchFault -/

@[simp] theorem State.latchFault_cfg (f : Fault) (w : Word) : (s.latchFault f w).cfg = s.cfg := rfl
@[simp] theorem State.latchFault_v (f : Fault) (w : Word) : (s.latchFault f w).v = s.v := rfl
@[simp] theorem State.latchFault_i (f : Fault) (w : Word) : (s.latchFault f w).i = s.i := rfl
@[simp] theorem State.latchFault_pc (f : Fault) (w : Word) : (s.latchFault f w).pc = s.pc := rfl
@[simp] theorem State.latchFault_stk (f : Fault) (w : Word) : (s.latchFault f w).stk = s.stk := rfl
@[simp] theorem State.latchFault_sp (f : Fault) (w : Word) : (s.latchFault f w).sp = s.sp := rfl
@[simp] theorem State.latchFault_dt (f : Fault) (w : Word) : (s.latchFault f w).dt = s.dt := rfl
@[simp] theorem State.latchFault_st (f : Fault) (w : Word) : (s.latchFault f w).st = s.st := rfl
@[simp] theorem State.latchFault_fb (f : Fault) (w : Word) : (s.latchFault f w).fb = s.fb := rfl
@[simp] theorem State.latchFault_mem (f : Fault) (w : Word) : (s.latchFault f w).mem = s.mem := rfl
@[simp] theorem State.latchFault_loaded (f : Fault) (w : Word) : (s.latchFault f w).loaded = s.loaded := rfl
@[simp] theorem State.latchFault_fault (f : Fault) (w : Word) : (s.latchFault f w).fault = some { cause := f, info := w } := rfl
@[simp] theorem State.latchFault_inputs (f : Fault) (w : Word) : (s.latchFault f w).inputs = s.inputs := rfl
@[simp] theorem State.latchFault_reg (f : Fault) (w : Word) (r : Reg) : (s.latchFault f w).reg r = s.reg r := rfl
@[simp] theorem State.latchFault_byteAt (f : Fault) (w : Word) (p : Nat) : (s.latchFault f w).byteAt p = s.byteAt p := rfl

/-! ### raiseFault -/

@[simp] theorem State.raiseFault_cfg (f : Fault) (w : Word) : (s.raiseFault f w).cfg = s.cfg := rfl
@[simp] theorem State.raiseFault_v (f : Fault) (w : Word) : (s.raiseFault f w).v = s.v := rfl
@[simp] theorem State.raiseFault_i (f : Fault) (w : Word) : (s.raiseFault f w).i = s.i := rfl
@[simp] theorem State.raiseFault_pc (f : Fault) (w : Word) : (s.raiseFault f w).pc = s.pc - 2 := rfl
@[simp] theorem State.raiseFault_stk (f : Fault) (w : Word) : (s.raiseFault f w).stk = s.stk := rfl
@[simp] theorem State.raiseFault_sp (f : Fault) (w : Word) : (s.raiseFault f w).sp = s.sp := rfl
@[simp] theorem State.raiseFault_dt (f : Fault) (w : Word) : (s.raiseFault f w).dt = s.dt := rfl
@[simp] theorem State.raiseFault_st (f : Fault) (w : Word) : (s.raiseFault f w).st = s.st := rfl
@[simp] theorem State.raiseFault_fb (f : Fault) (w : Word) : (s.raiseFault f w).fb = s.fb := rfl
@[simp] theorem State.raiseFault_mem (f : Fault) (w : Word) : (s.raiseFault f w).mem = s.mem := rfl
@[simp] theorem State.raiseFault_loaded (f : Fault) (w : Word) : (s.raiseFault f w).loaded = s.loaded := rfl
@[simp] theorem State.raiseFault_fault (f : Fault) (w : Word) : (s.raiseFault f w).fault = some { cause := f, info := w } := rfl
@[simp] theorem State.raiseFault_inputs (f : Fault) (w : Word) : (s.raiseFault f w).inputs = s.inputs := rfl
@[simp] theorem State.raiseFault_reg (f : Fault) (w : Word) (r : Reg) : (s.raiseFault f w).reg r = s.reg r := rfl
@[simp] theorem State.raiseFault_byteAt (f : Fault) (w : Word) (p : Nat) : (s.raiseFault f w).byteAt p = s.byteAt p := rfl

/-! ### advance -/

@[simp] theorem State.advance_cfg : s.advance.cfg = s.cfg := rfl
@[simp] theorem State.advance_v : s.advance.v = s.v := rfl
@[simp] theorem State.advance_i : s.advance.i = s.i := rfl
@[simp] theorem State.advance_pc : s.advance.pc = s.pc + 2 := rfl
@[simp] theorem State.advance_stk : s.advance.stk = s.stk := rfl
@[simp] theorem State.advance_sp : s.advance.sp = s.sp := rfl
@[simp] theorem State.advance_dt : s.advance.dt = s.dt := rfl
@[simp] theorem State.advance_st : s.advance.st = s.st := rfl
@[simp] theorem State.advance_fb : s.advance.fb = s.fb := rfl
@[simp] theorem State.advance_mem : s.advance.mem = s.mem := rfl
@[simp] theorem State.advance_loaded : s.advance.loaded = s.loaded := rfl
@[simp] theorem State.advance_fault : s.advance.fault = s.fault := rfl
@[simp] theorem State.advance_inputs : s.advance.inputs = s.inputs := rfl
@[simp] theorem State.advance_reg (r : Reg) : s.advance.reg r = s.reg r := rfl
@[simp] theorem State.advance_byteAt (p : Nat) : s.advance.byteAt p = s.byteAt p := rfl

/-! ### rewind -/

@[simp] theorem State.rewind_cfg : s.rewind.cfg = s.cfg := rfl
@[simp] theorem State.rewind_v : s.rewind.v = s.v := rfl
@[simp] theorem State.rewind_i : s.rewind.i = s.i := rfl
@[simp] theorem State.rewind_pc : s.rewind.pc = s.pc - 2 := rfl
@[simp] theorem State.rewind_stk : s.rewind.stk = s.stk := rfl
@[simp] theorem State.rewind_sp : s.rewind.sp = s.sp := rfl
@[simp] theorem State.rewind_dt : s.rewind.dt = s.dt := rfl
@[simp] theorem State.rewind_st : s.rewind.st = s.st := rfl
@[simp] theorem State.rewind_fb : s.rewind.fb = s.fb := rfl
@[simp] theorem State.rewind_mem : s.rewind.mem = s.mem := rfl
@[simp] theorem State.rewind_loaded : s.rewind.loaded = s.loaded := rfl
@[simp] theorem State.rewind_fault : s.rewind.fault = s.fault := rfl
@[simp] theorem State.rewind_inputs : s.rewind.inputs = s.inputs := rfl
@[simp] theorem State.rewind_reg (r : Reg) : s.rewind.reg r = s.reg r := rfl
@[simp] theorem State.rewind_byteAt (p : Nat) : s.rewind.byteAt p = s.byteAt p := rfl

/-! ### nextInputs -/

@[simp] theorem State.nextInputs_cfg : s.nextInputs.cfg = s.cfg := rfl
@[simp] theorem State.nextInputs_v : s.nextInputs.v = s.v := rfl
@[simp] theorem State.nextInputs_i : s.nextInputs.i = s.i := rfl
@[simp] theorem State.nextInputs_pc : s.nextInputs.pc = s.pc := rfl
@[simp] theorem State.nextInputs_stk : s.nextInputs.stk = s.stk := rfl
@[simp] theorem State.nextInputs_sp : s.nextInputs.sp = s.sp := rfl
@[simp] theorem State.nextInputs_dt : s.nextInputs.dt = s.dt := rfl
@[simp] theorem State.nextInputs_st : s.nextInputs.st = s.st := rfl
@[simp] theorem State.nextInputs_fb : s.nextInputs.fb = s.fb := rfl
@[simp] theorem State.nextInputs_mem : s.nextInputs.mem = s.mem := rfl
@[simp] theorem State.nextInputs_loaded : s.nextInputs.loaded = s.loaded := rfl
@[simp] theorem State.nextInputs_fault : s.nextInputs.fault = s.fault := rfl
@[simp] theorem State.nextInputs_inputs : s.nextInputs.inputs = s.inputs.refresh := rfl
@[simp] theorem State.nextInputs_reg (r : Reg) : s.nextInputs.reg r = s.reg r := rfl
@[simp] theorem State.nextInputs_byteAt (p : Nat) : s.nextInputs.byteAt p = s.byteAt p := rfl

/-! ### withInputs -/

@[simp] theorem State.withInputs_cfg (k : BitVec 16) (b : Byte) : (s.withInputs k b).cfg = s.cfg := rfl
@[simp] theorem State.withInputs_v (k : BitVec 16) (b : Byte) : (s.withInputs k b).v = s.v := rfl
@[simp] theorem State.withInputs_i (k : BitVec 16) (b : Byte) : (s.withInputs k b).i = s.i := rfl
@[simp] theorem State.withInputs_pc (k : BitVec 16) (b : Byte) : (s.withInputs k b).pc = s.pc := rfl
@[simp] theorem State.withInputs_stk (k : BitVec 16) (b : Byte) : (s.withInputs k b).stk = s.stk := rfl
@[simp] theorem State.withInputs_sp (k : BitVec 16) (b : Byte) : (s.withInputs k b).sp = s.sp := rfl
@[simp] theorem State.withInputs_dt (k : BitVec 16) (b : Byte) : (s.withInputs k b).dt = s.dt := rfl
@[simp] theorem State.withInputs_st (k : BitVec 16) (b : Byte) : (s.withInputs k b).st = s.st := rfl
@[simp] theorem State.withInputs_fb (k : BitVec 16) (b : Byte) : (s.withInputs k b).fb = s.fb := rfl
@[simp] theorem State.withInputs_mem (k : BitVec 16) (b : Byte) : (s.withInputs k b).mem = s.mem := rfl
@[simp] theorem State.withInputs_loaded (k : BitVec 16) (b : Byte) : (s.withInputs k b).loaded = s.loaded := rfl
@[simp] theorem State.withInputs_fault (k : BitVec 16) (b : Byte) : (s.withInputs k b).fault = s.fault := rfl
@[simp] theorem State.withInputs_inputs (k : BitVec 16) (b : Byte) : (s.withInputs k b).inputs = { s.inputs with keys := k, rnd := b } := rfl
@[simp] theorem State.withInputs_reg (k : BitVec 16) (b : Byte) (r : Reg) : (s.withInputs k b).reg r = s.reg r := rfl
@[simp] theorem State.withInputs_byteAt (k : BitVec 16) (b : Byte) (p : Nat) : (s.withInputs k b).byteAt p = s.byteAt p := rfl

/-! ### applyTick -/

@[simp] theorem State.applyTick_cfg : s.applyTick.cfg = s.cfg := rfl
@[simp] theorem State.applyTick_v : s.applyTick.v = s.v := rfl
@[simp] theorem State.applyTick_i : s.applyTick.i = s.i := rfl
@[simp] theorem State.applyTick_pc : s.applyTick.pc = s.pc := rfl
@[simp] theorem State.applyTick_stk : s.applyTick.stk = s.stk := rfl
@[simp] theorem State.applyTick_sp : s.applyTick.sp = s.sp := rfl
@[simp] theorem State.applyTick_dt : s.applyTick.dt = tickTimer s.dt := rfl
@[simp] theorem State.applyTick_st : s.applyTick.st = tickTimer s.st := rfl
@[simp] theorem State.applyTick_fb : s.applyTick.fb = s.fb := rfl
@[simp] theorem State.applyTick_mem : s.applyTick.mem = s.mem := rfl
@[simp] theorem State.applyTick_loaded : s.applyTick.loaded = s.loaded := rfl
@[simp] theorem State.applyTick_fault : s.applyTick.fault = s.fault := rfl
@[simp] theorem State.applyTick_inputs : s.applyTick.inputs = s.inputs := rfl
@[simp] theorem State.applyTick_reg (r : Reg) : s.applyTick.reg r = s.reg r := rfl
@[simp] theorem State.applyTick_byteAt (p : Nat) : s.applyTick.byteAt p = s.byteAt p := rfl

/-! ### setFlag -/

@[simp] theorem State.setFlag_cfg (f : Bool) : (s.setFlag f).cfg = s.cfg := rfl
@[simp] theorem State.setFlag_v (f : Bool) : (s.setFlag f).v = s.v.set VF (flagByte f) := rfl
@[simp] theorem State.setFlag_i (f : Bool) : (s.setFlag f).i = s.i := rfl
@[simp] theorem State.setFlag_pc (f : Bool) : (s.setFlag f).pc = s.pc := rfl
@[simp] theorem State.setFlag_stk (f : Bool) : (s.setFlag f).stk = s.stk := rfl
@[simp] theorem State.setFlag_sp (f : Bool) : (s.setFlag f).sp = s.sp := rfl
@[simp] theorem State.setFlag_dt (f : Bool) : (s.setFlag f).dt = s.dt := rfl
@[simp] theorem State.setFlag_st (f : Bool) : (s.setFlag f).st = s.st := rfl
@[simp] theorem State.setFlag_fb (f : Bool) : (s.setFlag f).fb = s.fb := rfl
@[simp] theorem State.setFlag_mem (f : Bool) : (s.setFlag f).mem = s.mem := rfl
@[simp] theorem State.setFlag_loaded (f : Bool) : (s.setFlag f).loaded = s.loaded := rfl
@[simp] theorem State.setFlag_fault (f : Bool) : (s.setFlag f).fault = s.fault := rfl
@[simp] theorem State.setFlag_inputs (f : Bool) : (s.setFlag f).inputs = s.inputs := rfl
@[simp] theorem State.setFlag_byteAt (f : Bool) (p : Nat) : (s.setFlag f).byteAt p = s.byteAt p := rfl

/-! ### combine -/

@[simp] theorem State.combine_cfg (g : Byte → Byte → Byte) (x y : Reg) : (s.combine g x y).cfg = s.cfg := rfl
@[simp] theorem State.combine_v (g : Byte → Byte → Byte) (x y : Reg) : (s.combine g x y).v = s.v.set x (g (s.reg x) (s.reg y)) := rfl
@[simp] theorem State.combine_i (g : Byte → Byte → Byte) (x y : Reg) : (s.combine g x y).i = s.i := rfl
@[simp] theorem State.combine_pc (g : Byte → Byte → Byte) (x y : Reg) : (s.combine g x y).pc = s.pc := rfl
@[simp] theorem State.combine_stk (g : Byte → Byte → Byte) (x y : Reg) : (s.combine g x y).stk = s.stk := rfl
@[simp] theorem State.combine_sp (g : Byte → Byte → Byte) (x y : Reg) : (s.combine g x y).sp = s.sp := rfl
@[simp] theorem State.combine_dt (g : Byte → Byte → Byte) (x y : Reg) : (s.combine g x y).dt = s.dt := rfl
@[simp] theorem State.combine_st (g : Byte → Byte → Byte) (x y : Reg) : (s.combine g x y).st = s.st := rfl
@[simp] theorem State.combine_fb (g : Byte → Byte → Byte) (x y : Reg) : (s.combine g x y).fb = s.fb := rfl
@[simp] theorem State.combine_mem (g : Byte → Byte → Byte) (x y : Reg) : (s.combine g x y).mem = s.mem := rfl
@[simp] theorem State.combine_loaded (g : Byte → Byte → Byte) (x y : Reg) : (s.combine g x y).loaded = s.loaded := rfl
@[simp] theorem State.combine_fault (g : Byte → Byte → Byte) (x y : Reg) : (s.combine g x y).fault = s.fault := rfl
@[simp] theorem State.combine_inputs (g : Byte → Byte → Byte) (x y : Reg) : (s.combine g x y).inputs = s.inputs := rfl
@[simp] theorem State.combine_byteAt (g : Byte → Byte → Byte) (x y : Reg) (p : Nat) : (s.combine g x y).byteAt p = s.byteAt p := rfl

/-! ### Registers after a write -/

theorem State.setReg_reg (x : Reg) (b : Byte) (r : Reg) : (s.setReg x b).reg r = if r = x then b else s.reg r := by
  by_cases h : r = x
  · subst h; simp [State.reg, State.setReg]
  · have h' : x.val ≠ r.val := fun e => h (Fin.ext e.symm)
    simp [State.reg, State.setReg, h, h']

@[simp] theorem State.setReg_reg_self (x : Reg) (b : Byte) : (s.setReg x b).reg x = b := by
  simp [State.setReg_reg]

theorem State.setReg_reg_of_ne {x r : Reg} (b : Byte) (h : r ≠ x) : (s.setReg x b).reg r = s.reg r := by
  simp [State.setReg_reg, h]

theorem State.setFlag_reg (f : Bool) (r : Reg) :
    (s.setFlag f).reg r = if r = VF then flagByte f else s.reg r := State.setReg_reg s VF (flagByte f) r

theorem State.combine_reg (g : Byte → Byte → Byte) (x y r : Reg) :
    (s.combine g x y).reg r = if r = x then g (s.reg x) (s.reg y) else s.reg r :=
  State.setReg_reg s x (g (s.reg x) (s.reg y)) r

/-! ### skipIf -/

theorem State.skipIf_eq (c : Bool) : s.skipIf c = s.setPc (if c then s.pc + 2 else s.pc) := by
  cases c <;> rfl

/-! ### setRegs: the block of registers k, k + 1, … takes the bytes in order, everything else stays -/

theorem State.setRegs_eq_v (k : Nat) (bs : List Byte) : s.setRegs k bs = { s with v := (s.setRegs k bs).v } := by
  induction bs generalizing s k with
  | nil => rfl
  | cons b bs ih =>
    simp only [State.setRegs]
    rw [ih]
    rfl

theorem State.setRegs_reg (k : Nat) (bs : List Byte) (h : k + bs.length ≤ 16) (r : Reg) :
    (s.setRegs k bs).reg r = if hr : k ≤ r.val ∧ r.val < k + bs.length then bs[r.val - k] else s.reg r := by
  induction bs generalizing s k with
  | nil => rw [dif_neg (by simp only [List.length_nil]; omega)]; rfl
  | cons b bs ih =>
    simp only [List.length_cons] at h ⊢
    rw [State.setRegs, ih _ _ (by omega)]
    by_cases h1 : r.val = k
    · have hr : r = Fin.ofNat 16 k := Fin.ext (by simp [Fin.ofNat]; omega)
      have : ¬ (k + 1 ≤ r.val ∧ r.val < k + 1 + bs.length) := by omega
      have h2 : k ≤ r.val ∧ r.val < k + (bs.length + 1) := by omega
      rw [dif_neg this, dif_pos h2, State.setReg_reg, if_pos hr]
      simp [h1]
    · have hr : r ≠ Fin.ofNat 16 k := fun e => h1 (by rw [e]; simp [Fin.ofNat]; omega)
      by_cases h2 : k + 1 ≤ r.val ∧ r.val < k + 1 + bs.length
      · have h3 : k ≤ r.val ∧ r.val < k + (bs.length + 1) := by omega
        rw [dif_pos h2, dif_pos h3]
        have : r.val - k = (r.val - (k + 1)) + 1 := by omega
        simp [this]
      · have h3 : ¬ (k ≤ r.val ∧ r.val < k + (bs.length + 1)) := by omega
        rw [dif_neg h2, dif_neg h3, State.setReg_reg_of_ne _ _ hr]

end Sys2Proof.Machine
end

