-- ==== Sys2Proof/Laws/Ops.lean ====
section
/-! SUPPORT. One lemma per shared operation that says everything it can do. -/

namespace Sys2Proof.Machine

/-! ### mapNext -/

@[simp] theorem mapNext_next (f : State → State) (s : State) : mapNext f (.next s) = .next (f s) := rfl

theorem mapNext_eq_next {f : State → State} {r : Result} {t : State} (h : mapNext f r = .next t) :
    ∃ u, r = .next u ∧ t = f u := by
  cases r with
  | next u => exact ⟨u, rfl, by simpa using h.symm⟩
  | fault r => cases h
  | refused r => cases h

/-! ### The stack -/

/-- A push onto a stack that is not full. -/
theorem State.push_of_lt {s : State} (w : Word) (h : s.sp.val < 16) :
    s.push w = some { s with stk := s.stk.set s.sp.val w h, sp := ⟨s.sp.val + 1, by omega⟩ } := dif_pos h

theorem State.push_of_full {s : State} (w : Word) (h : s.sp.val = 16) : s.push w = none := dif_neg (by omega)

/-- Everything a push can do. -/
theorem State.push_cases (s : State) (w : Word) :
    (s.sp.val = 16 ∧ s.push w = none) ∨
      ∃ h : s.sp.val < 16, s.push w =
        some { s with stk := s.stk.set s.sp.val w h, sp := ⟨s.sp.val + 1, by omega⟩ } := by
  by_cases h : s.sp.val < 16
  · exact .inr ⟨h, s.push_of_lt w h⟩
  · have : s.sp.val = 16 := by omega
    exact .inl ⟨this, s.push_of_full w this⟩

/-- A pop from a stack that is not empty. -/
theorem State.pop_of_pos {s : State} (h : 0 < s.sp.val) :
    s.pop = some (s.stk[s.sp.val - 1]'(by omega), { s with sp := ⟨s.sp.val - 1, by omega⟩ }) := dif_pos h

theorem State.pop_of_empty {s : State} (h : s.sp.val = 0) : s.pop = none := dif_neg (by omega)

/-- Everything a pop can do. -/
theorem State.pop_cases (s : State) :
    (s.sp.val = 0 ∧ s.pop = none) ∨
      ∃ h : 0 < s.sp.val,
        s.pop = some (s.stk[s.sp.val - 1]'(by omega), { s with sp := ⟨s.sp.val - 1, by omega⟩ }) := by
  by_cases h : 0 < s.sp.val
  · exact .inr ⟨h, s.pop_of_pos h⟩
  · have : s.sp.val = 0 := by omega
    exact .inl ⟨this, s.pop_of_empty this⟩

/-! ### Operands -/

/-- The range check in the words of 20_memory.md R40. -/
theorem inMemory_iff (base len : Nat) : inMemory base len = true ↔ len = 0 ∨ base + len ≤ 4096 := by
  simp only [inMemory, Bool.or_eq_true, decide_eq_true_eq]
  omega

@[simp] theorem State.regBlock_length (s : State) (x : Reg) : (s.regBlock x).length = x.val + 1 := by
  simp [State.regBlock]

theorem State.regBlock_getElem (s : State) (x : Reg) (k : Nat) (h : k < (s.regBlock x).length) :
    (s.regBlock x)[k] = s.reg (Fin.ofNat 16 k) := by
  have hk : k < 16 := by rw [State.regBlock_length] at h; omega
  simp [State.regBlock, State.reg, Nat.mod_eq_of_lt hk]

@[simp] theorem State.loadBytes_length (s : State) (a n : Nat) : (s.loadBytes a n).length = n :=
  Mem.readList_length s.cfg s.mem a n

theorem State.loadBytes_getElem (s : State) (a n k : Nat) (h : k < (s.loadBytes a n).length) :
    (s.loadBytes a n)[k] = s.byteAt (a + k) := Mem.readList_getElem s.cfg s.mem a n k h

@[simp] theorem bcdDigits_length (b : Byte) : (bcdDigits b).length = 3 := rfl

/-- The key scan: the lowest pressed key, or none when no key is down. -/
theorem State.lowestKey_cases (s : State) :
    (s.lowestKey = none ∧ ∀ k : Reg, s.keyDown k.val = false) ∨
      ∃ k : Reg, s.lowestKey = some k ∧ s.keyDown k.val = true ∧ ∀ j : Reg, j < k → s.keyDown j.val = false := by
  cases h : s.lowestKey with
  | none =>
    refine .inl ⟨rfl, fun k => ?_⟩
    have := List.find?_eq_none.mp h k (List.mem_finRange k)
    simpa using this
  | some k =>
    refine .inr ⟨k, rfl, ?_, fun j hj => ?_⟩
    · exact List.find?_some (p := fun k : Reg => s.keyDown k.val) h
    · obtain ⟨-, i, hi, hk, hall⟩ := List.find?_eq_some_iff_getElem.mp h
      have hik : i = k.val := by rw [← hk]; simp
      have hj' : j.val < i := by rw [hik]; exact hj
      have := hall j.val hj'
      simpa using this

/-! ### Transactions -/

theorem tickTimer_toNat (t : Byte) : (tickTimer t).toNat = t.toNat - 1 := by
  unfold tickTimer
  split
  · rename_i h
    have : 0 < t.toNat := by simpa [BitVec.lt_def] using h
    rw [BitVec.toNat_sub]
    simp
    omega
  · rename_i h
    have : ¬ 0 < t.toNat := by simpa [BitVec.lt_def] using h
    omega

/-- Everything a LOAD can do. -/
theorem State.applyLoad_cases (s : State) (source : Option (List Byte)) :
    (∃ bytes, source = some bytes ∧ bytes.length ≤ maxRomLength ∧
        s.applyLoad source = ({ s.storeBytes 0x200 bytes with loaded := true }, true)) ∨
      ((∀ bytes, source = some bytes → maxRomLength < bytes.length) ∧ s.applyLoad source = (s, false)) := by
  cases source with
  | none => exact .inr ⟨fun _ h => by simp at h, rfl⟩
  | some bytes =>
    by_cases h : bytes.length ≤ maxRomLength
    · exact .inl ⟨bytes, rfl, h, by simp [State.applyLoad, h]⟩
    · refine .inr ⟨fun b hb => ?_, by simp [State.applyLoad, h]⟩
      cases hb
      omega

/-! ### Fetch -/

theorem State.fetch_of_le {s : State} (h : s.pc.toNat ≤ 4094) :
    s.fetch = some (wordOfBytes (s.byteAt s.pc.toNat) (s.byteAt (s.pc.toNat + 1))) := if_pos h

theorem State.fetch_of_gt {s : State} (h : 4094 < s.pc.toNat) : s.fetch = none := if_neg (by omega)

theorem wordOfBytes_toNat (hi lo : Byte) : (wordOfBytes hi lo).toNat = hi.toNat * 256 + lo.toNat := by
  unfold wordOfBytes
  rw [BitVec.toNat_append, ← Nat.shiftLeft_add_eq_or_of_lt lo.isLt, Nat.shiftLeft_eq]

@[simp] theorem wordOfBytes_bytesOfWord (op : Word) :
    wordOfBytes (op.extractLsb' 8 8) (op.extractLsb' 0 8) = op := by
  apply BitVec.eq_of_toNat_eq
  rw [wordOfBytes_toNat, BitVec.extractLsb'_toNat, BitVec.extractLsb'_toNat, Nat.shiftRight_eq_div_pow]
  have := op.isLt
  simp
  omega

end Sys2Proof.Machine
end

