-- ==== Sys2Proof/Laws/Frames.lean ====
section
/-! SUPPORT. The write set of each shared update (10_state.md R26), once. -/

namespace Sys2Proof.Machine

theorem respected_setPc (s : State) (w : Word) : WriteSet.Respected { pc := true } s (s.setPc w) := by
  constructor <;> simp

theorem respected_skipIf (s : State) (cond : Bool) : WriteSet.Respected { pc := true } s (s.skipIf cond) := by
  rw [State.skipIf_eq]
  exact respected_setPc s _

theorem respected_setReg (s : State) (x : Reg) (b : Byte) :
    WriteSet.Respected { regs := [x] } s (s.setReg x b) := by
  constructor <;> simp
  exact fun r h => State.setReg_reg_of_ne _ _ h

theorem respected_setFlag_setReg (s : State) (f : Bool) (x : Reg) (b : Byte) :
    WriteSet.Respected { regs := [x, VF] } s ((s.setFlag f).setReg x b) := by
  constructor <;> simp
  intro r hx hf
  rw [State.setReg_reg_of_ne _ _ hx, State.setFlag_reg, if_neg hf]

theorem respected_storeBytes (s : State) (a n : Nat) (bs : List Byte) (h : bs.length = n) :
    WriteSet.Respected { stored := (a, n) } s (s.storeBytes a bs) := by
  subst h
  constructor <;> simp
  intro x hx
  rw [State.storeBytes_byteAt, dif_neg (by omega)]

theorem respected_setI (s : State) (w : Word) : WriteSet.Respected { index := true } s (s.setI w) := by
  constructor <;> simp

theorem respected_setDt (s : State) (b : Byte) : WriteSet.Respected { delay := true } s (s.setDt b) := by
  constructor <;> simp

theorem respected_setSt (s : State) (b : Byte) : WriteSet.Respected { sound := true } s (s.setSt b) := by
  constructor <;> simp

theorem respected_setFb (s : State) (fb : BitVec 2048) : WriteSet.Respected { screen := true } s (s.setFb fb) := by
  constructor <;> simp

end Sys2Proof.Machine
end

