-- ==== Sys2Proof/Laws/PerInstr.lean ====
section
/-! SUPPORT. The family OpcodeRow of LAWS.json: every instruction's word lies in its row of the opcode map
(30_encoding.md R56). -/

namespace Sys2Proof.Laws.OpcodeRow

/-- The mask and match columns of 30_encoding.md R56; NOP has no row, so its own word is its row. -/
def row : Instr → Word × Word
  | .CLS => (0xFFFF, 0x00E0)
  | .RET => (0xFFFF, 0x00EE)
  | .JP _ => (0xF000, 0x1000)
  | .CALL _ => (0xF000, 0x2000)
  | .SE_imm _ _ => (0xF000, 0x3000)
  | .SNE_imm _ _ => (0xF000, 0x4000)
  | .SE_reg _ _ => (0xF00F, 0x5000)
  | .LD_imm _ _ => (0xF000, 0x6000)
  | .ADD_imm _ _ => (0xF000, 0x7000)
  | .LD_reg _ _ => (0xF00F, 0x8000)
  | .OR _ _ => (0xF00F, 0x8001)
  | .AND _ _ => (0xF00F, 0x8002)
  | .XOR _ _ => (0xF00F, 0x8003)
  | .ADD_reg _ _ => (0xF00F, 0x8004)
  | .SUB _ _ => (0xF00F, 0x8005)
  | .SHR _ => (0xF00F, 0x8006)
  | .SUBN _ _ => (0xF00F, 0x8007)
  | .SHL _ => (0xF00F, 0x800E)
  | .SNE_reg _ _ => (0xF00F, 0x9000)
  | .LD_I _ => (0xF000, 0xA000)
  | .JP_V0 _ => (0xF000, 0xB000)
  | .RND _ _ => (0xF000, 0xC000)
  | .DRW _ _ _ => (0xF000, 0xD000)
  | .SKP _ => (0xF0FF, 0xE09E)
  | .SKNP _ => (0xF0FF, 0xE0A1)
  | .LD_Vx_DT _ => (0xF0FF, 0xF007)
  | .LD_Vx_K _ => (0xF0FF, 0xF00A)
  | .LD_DT_Vx _ => (0xF0FF, 0xF015)
  | .LD_ST_Vx _ => (0xF0FF, 0xF018)
  | .ADD_I _ => (0xF0FF, 0xF01E)
  | .LD_F _ => (0xF0FF, 0xF029)
  | .LD_B _ => (0xF0FF, 0xF033)
  | .LD_mem_Vx _ => (0xF0FF, 0xF055)
  | .LD_Vx_mem _ => (0xF0FF, 0xF065)
  | .NOP op => (0xFFFF, op)

/-- The instruction's word AND its row's mask is its row's match. -/
def Statement (i : Instr) : Prop := encode i &&& (row i).1 = (row i).2

/-- A word of format A in its row. -/
theorem encodeA_row (f : BitVec 4) (nnn : BitVec 12) : encodeA f nnn &&& 0xF000 = f ++ (0 : BitVec 12) := by
  have e : (0xF000 : Word) = (0xF#4 ++ (0 : BitVec 12) : BitVec (4 + 12)) := by decide
  rw [e, encodeA]
  show (f ++ nnn : BitVec (4 + 12)) &&& _ = _
  rw [BitVec.and_append]
  congr 1
  · revert f; decide
  · simp

/-- A word of format XI in its row. -/
theorem encodeXI_row (f : BitVec 4) (x : Reg) (nn : Byte) :
    encodeXI f x nn &&& 0xF000 = f ++ (0 : BitVec 4) ++ (0 : BitVec 8) := by
  have e : (0xF000 : Word) = (0xF#4 ++ (0 : BitVec 4) ++ (0 : BitVec 8) : BitVec (4 + 4 + 8)) := by decide
  rw [e, encodeXI]
  show (f ++ BitVec.ofFin (w := 4) x ++ nn : BitVec (4 + 4 + 8)) &&& _ = _
  rw [BitVec.and_append, BitVec.and_append]
  congr 1
  · congr 1
    · revert f; decide
    · simp
  · simp

/-- A word of format XK in its row. -/
theorem encodeXK_row (f : BitVec 4) (x : Reg) (nn : Byte) :
    encodeXI f x nn &&& 0xF0FF = f ++ (0 : BitVec 4) ++ nn := by
  have e : (0xF0FF : Word) = (0xF#4 ++ (0 : BitVec 4) ++ BitVec.allOnes 8 : BitVec (4 + 4 + 8)) := by decide
  rw [e, encodeXI]
  show (f ++ BitVec.ofFin (w := 4) x ++ nn : BitVec (4 + 4 + 8)) &&& _ = _
  rw [BitVec.and_append, BitVec.and_append]
  congr 1
  · congr 1
    · revert f; decide
    · simp
  · exact BitVec.and_allOnes

/-- A word of format XY in its row. -/
theorem encodeXY_row (f : BitVec 4) (x y : Reg) (n : BitVec 4) :
    encodeXY f x y n &&& 0xF00F = f ++ (0 : BitVec 4) ++ (0 : BitVec 4) ++ n := by
  have e : (0xF00F : Word) = (0xF#4 ++ (0 : BitVec 4) ++ (0 : BitVec 4) ++ 0xF#4 : BitVec (4 + 4 + 4 + 4)) := by decide
  rw [e, encodeXY]
  show (f ++ BitVec.ofFin (w := 4) x ++ BitVec.ofFin (w := 4) y ++ n : BitVec (4 + 4 + 4 + 4)) &&& _ = _
  rw [BitVec.and_append, BitVec.and_append, BitVec.and_append]
  congr 1
  · congr 1
    · congr 1
      · revert f; decide
      · simp
    · simp
  · revert n; decide

/-- A word of format XYN in its row. -/
theorem encodeXYN_row (f : BitVec 4) (x y : Reg) (n : BitVec 4) :
    encodeXY f x y n &&& 0xF000 = f ++ (0 : BitVec 4) ++ (0 : BitVec 4) ++ (0 : BitVec 4) := by
  have e : (0xF000 : Word) = (0xF#4 ++ (0 : BitVec 4) ++ (0 : BitVec 4) ++ (0 : BitVec 4) : BitVec (4 + 4 + 4 + 4)) := by
    decide
  rw [e, encodeXY]
  show (f ++ BitVec.ofFin (w := 4) x ++ BitVec.ofFin (w := 4) y ++ n : BitVec (4 + 4 + 4 + 4)) &&& _ = _
  rw [BitVec.and_append, BitVec.and_append, BitVec.and_append]
  congr 1
  · congr 1
    · congr 1
      · revert f; decide
      · simp
    · simp
  · simp

theorem CLS : Statement (.CLS) := by unfold Statement; decide
theorem RET : Statement (.RET) := by unfold Statement; decide
theorem JP (nnn : BitVec 12) : Statement (.JP nnn) := encodeA_row _ _
theorem CALL (nnn : BitVec 12) : Statement (.CALL nnn) := encodeA_row _ _
theorem SE_imm (x : Reg) (nn : Byte) : Statement (.SE_imm x nn) := encodeXI_row _ _ _
theorem SNE_imm (x : Reg) (nn : Byte) : Statement (.SNE_imm x nn) := encodeXI_row _ _ _
theorem SE_reg (x y : Reg) : Statement (.SE_reg x y) := encodeXY_row _ _ _ _
theorem LD_imm (x : Reg) (nn : Byte) : Statement (.LD_imm x nn) := encodeXI_row _ _ _
theorem ADD_imm (x : Reg) (nn : Byte) : Statement (.ADD_imm x nn) := encodeXI_row _ _ _
theorem LD_reg (x y : Reg) : Statement (.LD_reg x y) := encodeXY_row _ _ _ _
theorem OR (x y : Reg) : Statement (.OR x y) := encodeXY_row _ _ _ _
theorem AND (x y : Reg) : Statement (.AND x y) := encodeXY_row _ _ _ _
theorem XOR (x y : Reg) : Statement (.XOR x y) := encodeXY_row _ _ _ _
theorem ADD_reg (x y : Reg) : Statement (.ADD_reg x y) := encodeXY_row _ _ _ _
theorem SUB (x y : Reg) : Statement (.SUB x y) := encodeXY_row _ _ _ _
theorem SHR (x : Reg) : Statement (.SHR x) := encodeXY_row _ _ _ _
theorem SUBN (x y : Reg) : Statement (.SUBN x y) := encodeXY_row _ _ _ _
theorem SHL (x : Reg) : Statement (.SHL x) := encodeXY_row _ _ _ _
theorem SNE_reg (x y : Reg) : Statement (.SNE_reg x y) := encodeXY_row _ _ _ _
theorem LD_I (nnn : BitVec 12) : Statement (.LD_I nnn) := encodeA_row _ _
theorem JP_V0 (nnn : BitVec 12) : Statement (.JP_V0 nnn) := encodeA_row _ _
theorem RND (x : Reg) (nn : Byte) : Statement (.RND x nn) := encodeXI_row _ _ _
theorem DRW (x y : Reg) (n : BitVec 4) : Statement (.DRW x y n) := encodeXYN_row _ _ _ _
theorem SKP (x : Reg) : Statement (.SKP x) := encodeXK_row _ _ _
theorem SKNP (x : Reg) : Statement (.SKNP x) := encodeXK_row _ _ _
theorem LD_Vx_DT (x : Reg) : Statement (.LD_Vx_DT x) := encodeXK_row _ _ _
theorem LD_Vx_K (x : Reg) : Statement (.LD_Vx_K x) := encodeXK_row _ _ _
theorem LD_DT_Vx (x : Reg) : Statement (.LD_DT_Vx x) := encodeXK_row _ _ _
theorem LD_ST_Vx (x : Reg) : Statement (.LD_ST_Vx x) := encodeXK_row _ _ _
theorem ADD_I (x : Reg) : Statement (.ADD_I x) := encodeXK_row _ _ _
theorem LD_F (x : Reg) : Statement (.LD_F x) := encodeXK_row _ _ _
theorem LD_B (x : Reg) : Statement (.LD_B x) := encodeXK_row _ _ _
theorem LD_mem_Vx (x : Reg) : Statement (.LD_mem_Vx x) := encodeXK_row _ _ _
theorem LD_Vx_mem (x : Reg) : Statement (.LD_Vx_mem x) := encodeXK_row _ _ _
theorem NOP (op : Word) : Statement (.NOP op) := BitVec.and_allOnes

end Sys2Proof.Laws.OpcodeRow
end

