-- ==== Sys2Proof/Laws/Step.lean ====
section
/-! SUPPORT. What a STEP and a transaction can do, once (40_step_cycle.md R70 to R73). -/

namespace Sys2Proof.Machine

theorem State.gated_eq_false {s : State} : s.gated = false ↔ s.loaded = true ∧ s.fault = none := by
  simp [State.gated]

theorem State.gated_eq_true {s : State} : s.gated = true ↔ s.loaded = false ∨ s.fault ≠ none := by
  simp [State.gated, Option.isSome_iff_ne_none]

/-- Everything a STEP can do: it is ignored, or its fetch faults, or it runs the fetched word's instruction. -/
theorem step_cases {s t : State} (h : step s = .next t) :
    (s.gated = true ∧ t = s) ∨
      (s.gated = false ∧ s.fetch = none ∧ t = (s.latchFault .fetchOob s.pc).nextInputs) ∨
      (s.gated = false ∧ ∃ op u, s.fetch = some op ∧ exec (decodeWord s.cfg op) s.advance = .next u ∧
        t = u.nextInputs) := by
  unfold step at h
  split at h
  · rename_i hg; exact .inl ⟨hg, by simpa using h.symm⟩
  · rename_i hg
    have hg : s.gated = false := by simpa using hg
    obtain ⟨u, hu, rfl⟩ := mapNext_eq_next h
    cases hf : s.fetch with
    | none =>
      rw [hf] at hu
      refine .inr (.inl ⟨hg, rfl, ?_⟩)
      simp only [Host.Outcome.next.injEq] at hu
      rw [← hu]
    | some op =>
      rw [hf] at hu
      exact .inr (.inr ⟨hg, op, u, rfl, hu, rfl⟩)

/-- A STEP that is neither ignored nor out of range. -/
theorem step_of_fetch {s : State} {op : Word} (hg : s.gated = false) (hf : s.fetch = some op) :
    step s = mapNext State.nextInputs (exec (decodeWord s.cfg op) s.advance) := by
  unfold step
  rw [hg, hf]
  rfl

/-- The first transaction of a schedule that answers a next state. -/
theorem runSchedule_cons {t : Transaction} {ts : List Transaction} {s u : State} (h : transact t s = .next u) :
    runSchedule (t :: ts) s = runSchedule ts u := by
  simp [runSchedule, h]

end Sys2Proof.Machine
end

