-- ==== Sys2Proof/Tests/Slice0.lean ====
section
/-! SUPPORT. Tests. Expected results are the spec's own vectors: decode vectors of 95_test_vectors.md section 3,
transaction vectors of its section 4 (X1, …), the source's worked examples of its section 1 (S1, …), and the step
vectors of 96_test_vectors_by_family.md (T0.1, …); the id stands before each. Last come the witnesses: for every
statement with hypotheses, states and operands that meet them, each clause at the values where it begins or ends. -/

namespace Sys2Proof.Tests

open Sys2Proof.Machine

/-! ### Helpers -/

/-- The base state of 95_test_vectors.md section 0: after RESET, loaded. -/
def base : State := { State.reset with loaded := true }

/-- The base state with some registers set. -/
def regs (l : List (Reg × Byte)) : State := l.foldl (fun s p => s.setReg p.1 p.2) base

/-- The same with I set. -/
def regsI (l : List (Reg × Byte)) (i : Word) : State := (regs l).setI i

/-- The state with the cell (x, y) lit. -/
def lit (x y : Nat) (s : State) : State := s.setFb (s.fb ||| BitVec.twoPow 2048 (y * 64 + x))

/-- The state with these keys pressed and this random byte, for the next STEP. -/
def driven (keys : BitVec 16) (rnd : Byte) (s : State) : State := s.withInputs keys rnd

/-- The state with this SP and this entry at the top of the stack. -/
def stacked (sp : Fin 17) (top : Word) (s : State) : State :=
  { s with sp := sp, stk := s.stk.set ((sp.val + 15) % 16) top (Nat.mod_lt _ (by decide)) }

/-- The state with other selectors for families 0 and E. -/
def lowNibble (s : State) : State := { s with cfg := { s.cfg with sub0 := .lowNibble, subE := .lowNibble } }

/-- What is seen of the next state. -/
def seen (r : Result) (f : State → α) : Option α :=
  match r with
  | .next t => some (f t)
  | .fault _ => none
  | .refused _ => none

/-- What is seen after one STEP that fetches `word`. -/
def look (word : Nat) (s : State) (f : State → α) : Option α := seen (step (s.withFetchWord 16 word)) f

/-- The parameters with the low nibble examined in families 0 and E. -/
def nibbles : Config := { Config.default with sub0 := .lowNibble, subE := .lowNibble }

/-- A fault latch that is set. -/
def latch (cause : Fault) (info : Word) : Option FaultRecord := some { cause := cause, info := info }

/-! ### Well-formedness: an ill-formed NOP for each way a word selects an instruction -/

/-- Family 1 has no no-op word (R55). -/
theorem test_wellFormed_refuses_nop_of_a_jump :
    Instr.wellFormed Config.default (.NOP 0x1234) = false := by decide

/-- 00E0 selects CLS. -/
theorem test_wellFormed_refuses_nop_of_cls :
    Instr.wellFormed Config.default (.NOP 0x00E0) = false := by decide

/-- An alias word of 00EE selects RET. -/
theorem test_wellFormed_refuses_nop_of_ret_alias :
    Instr.wellFormed Config.default (.NOP 0x07EE) = false := by decide

/-- 8XY4 selects ADD_reg. -/
theorem test_wellFormed_refuses_nop_of_add :
    Instr.wellFormed Config.default (.NOP 0x8AB4) = false := by decide

/-- EX9E selects SKP. -/
theorem test_wellFormed_refuses_nop_of_skp :
    Instr.wellFormed Config.default (.NOP 0xEA9E) = false := by decide

/-- FX07 selects LD_Vx_DT. -/
theorem test_wellFormed_refuses_nop_of_delay_read :
    Instr.wellFormed Config.default (.NOP 0xFA07) = false := by decide

/-- Under LowNibble the word 0000 selects CLS. -/
theorem test_wellFormed_refuses_nop_of_zero_word_low_nibble :
    Instr.wellFormed nibbles (.NOP 0x0000) = false := by decide

/-- Under LowNibble EA0E selects SKP. -/
theorem test_wellFormed_refuses_nop_of_skp_low_nibble :
    Instr.wellFormed nibbles (.NOP 0xEA0E) = false := by decide

/-- Words of the classes certain no-op and reading-dependent, and an instruction with every operand at its end. -/
theorem test_wellFormed_accepts :
    Instr.wellFormed Config.default (.NOP 0x0000) = true ∧ Instr.wellFormed nibbles (.NOP 0x0123) = true ∧
      Instr.wellFormed Config.default (.DRW 15 15 15) = true := by decide

/-! ### Decoding words written out from 30_encoding.md R56, one for every constructor (95_test_vectors.md section 3) -/

theorem test_decode_family_zero :
    (∀ c ∈ [Config.default, nibbles], decodeWord c 0x00E0 = .CLS) ∧
      (∀ c ∈ [Config.default, nibbles], decodeWord c 0x00EE = .RET) ∧
      decodeWord Config.default 0x0000 = .NOP 0x0000 ∧ decodeWord nibbles 0x0000 = .CLS ∧
      decodeWord Config.default 0x0010 = .NOP 0x0010 ∧ decodeWord nibbles 0x0010 = .CLS ∧
      decodeWord Config.default 0x00FE = .NOP 0x00FE ∧ decodeWord nibbles 0x00FE = .RET ∧
      (∀ c ∈ [Config.default, nibbles], decodeWord c 0x0AE0 = .CLS) ∧
      (∀ c ∈ [Config.default, nibbles], decodeWord c 0x07EE = .RET) ∧
      (∀ c ∈ [Config.default, nibbles], decodeWord c 0x0123 = .NOP 0x0123) ∧
      (∀ c ∈ [Config.default, nibbles], decodeWord c 0x0FFF = .NOP 0x0FFF) := by decide

theorem test_decode_family_jump :
    (∀ c ∈ [Config.default, nibbles], decodeWord c 0x1ABC = .JP 0xABC) := by decide

theorem test_decode_family_call :
    (∀ c ∈ [Config.default, nibbles], decodeWord c 0x2ABC = .CALL 0xABC) := by decide

theorem test_decode_family_three :
    (∀ c ∈ [Config.default, nibbles], decodeWord c 0x3A7F = .SE_imm 10 0x7F) := by decide

theorem test_decode_family_four :
    (∀ c ∈ [Config.default, nibbles], decodeWord c 0x4A7F = .SNE_imm 10 0x7F) := by decide

theorem test_decode_family_five :
    (∀ c ∈ [Config.default, nibbles], decodeWord c 0x5AB0 = .SE_reg 10 11) ∧
      (∀ c ∈ [Config.default, nibbles], decodeWord c 0x5AB7 = .SE_reg 10 11) := by decide

theorem test_decode_family_six :
    (∀ c ∈ [Config.default, nibbles], decodeWord c 0x6A7F = .LD_imm 10 0x7F) := by decide

theorem test_decode_family_seven :
    (∀ c ∈ [Config.default, nibbles], decodeWord c 0x7A7F = .ADD_imm 10 0x7F) := by decide

theorem test_decode_family_eight :
    (∀ c ∈ [Config.default, nibbles], decodeWord c 0x8AB0 = .LD_reg 10 11) ∧
      (∀ c ∈ [Config.default, nibbles], decodeWord c 0x8AB1 = .OR 10 11) ∧
      (∀ c ∈ [Config.default, nibbles], decodeWord c 0x8AB2 = .AND 10 11) ∧
      (∀ c ∈ [Config.default, nibbles], decodeWord c 0x8AB3 = .XOR 10 11) ∧
      (∀ c ∈ [Config.default, nibbles], decodeWord c 0x8AB4 = .ADD_reg 10 11) ∧
      (∀ c ∈ [Config.default, nibbles], decodeWord c 0x8AB5 = .SUB 10 11) ∧
      (∀ c ∈ [Config.default, nibbles], decodeWord c 0x8AB6 = .SHR 10) ∧
      (∀ c ∈ [Config.default, nibbles], decodeWord c 0x8AB7 = .SUBN 10 11) ∧
      (∀ c ∈ [Config.default, nibbles], decodeWord c 0x8AB8 = .NOP 0x8AB8) ∧
      (∀ c ∈ [Config.default, nibbles], decodeWord c 0x8ABD = .NOP 0x8ABD) ∧
      (∀ c ∈ [Config.default, nibbles], decodeWord c 0x8ABE = .SHL 10) ∧
      (∀ c ∈ [Config.default, nibbles], decodeWord c 0x8ABF = .NOP 0x8ABF) := by decide

theorem test_decode_family_nine :
    (∀ c ∈ [Config.default, nibbles], decodeWord c 0x9AB0 = .SNE_reg 10 11) ∧
      (∀ c ∈ [Config.default, nibbles], decodeWord c 0x9ABF = .SNE_reg 10 11) := by decide

theorem test_decode_family_A :
    (∀ c ∈ [Config.default, nibbles], decodeWord c 0xAABC = .LD_I 0xABC) := by decide

theorem test_decode_family_B :
    (∀ c ∈ [Config.default, nibbles], decodeWord c 0xBABC = .JP_V0 0xABC) := by decide

theorem test_decode_family_C :
    (∀ c ∈ [Config.default, nibbles], decodeWord c 0xCA7F = .RND 10 0x7F) := by decide

theorem test_decode_family_D :
    (∀ c ∈ [Config.default, nibbles], decodeWord c 0xDAB5 = .DRW 10 11 5) ∧
      (∀ c ∈ [Config.default, nibbles], decodeWord c 0xDAB0 = .DRW 10 11 0) := by decide

theorem test_decode_family_E :
    (∀ c ∈ [Config.default, nibbles], decodeWord c 0xEA9E = .SKP 10) ∧
      (∀ c ∈ [Config.default, nibbles], decodeWord c 0xEAA1 = .SKNP 10) ∧
      decodeWord Config.default 0xEA0E = .NOP 0xEA0E ∧ decodeWord nibbles 0xEA0E = .SKP 10 ∧
      decodeWord Config.default 0xEA01 = .NOP 0xEA01 ∧ decodeWord nibbles 0xEA01 = .SKNP 10 ∧
      decodeWord Config.default 0xEAEE = .NOP 0xEAEE ∧ decodeWord nibbles 0xEAEE = .SKP 10 ∧
      (∀ c ∈ [Config.default, nibbles], decodeWord c 0xEA9F = .NOP 0xEA9F) ∧
      (∀ c ∈ [Config.default, nibbles], decodeWord c 0xEA00 = .NOP 0xEA00) := by decide

theorem test_decode_family_F :
    (∀ c ∈ [Config.default, nibbles], decodeWord c 0xFA07 = .LD_Vx_DT 10) ∧
      (∀ c ∈ [Config.default, nibbles], decodeWord c 0xFA0A = .LD_Vx_K 10) ∧
      (∀ c ∈ [Config.default, nibbles], decodeWord c 0xFA15 = .LD_DT_Vx 10) ∧
      (∀ c ∈ [Config.default, nibbles], decodeWord c 0xFA18 = .LD_ST_Vx 10) ∧
      (∀ c ∈ [Config.default, nibbles], decodeWord c 0xFA1E = .ADD_I 10) ∧
      (∀ c ∈ [Config.default, nibbles], decodeWord c 0xFA29 = .LD_F 10) ∧
      (∀ c ∈ [Config.default, nibbles], decodeWord c 0xFA33 = .LD_B 10) ∧
      (∀ c ∈ [Config.default, nibbles], decodeWord c 0xFA55 = .LD_mem_Vx 10) ∧
      (∀ c ∈ [Config.default, nibbles], decodeWord c 0xFA65 = .LD_Vx_mem 10) ∧
      (∀ c ∈ [Config.default, nibbles], decodeWord c 0xFA00 = .NOP 0xFA00) ∧
      (∀ c ∈ [Config.default, nibbles], decodeWord c 0xFA75 = .NOP 0xFA75) ∧
      (∀ c ∈ [Config.default, nibbles], decodeWord c 0xFA85 = .NOP 0xFA85) ∧
      (∀ c ∈ [Config.default, nibbles], decodeWord c 0xFAFF = .NOP 0xFAFF) := by decide

theorem test_class_family_zero :
    classify 0x00E0 = .canonical ∧
      classify 0x00EE = .canonical ∧
      classify 0x0000 = .readingDependent ∧
      classify 0x0010 = .readingDependent ∧
      classify 0x00FE = .readingDependent ∧
      classify 0x0AE0 = .aliasWord ∧
      classify 0x07EE = .aliasWord ∧
      classify 0x0123 = .certainNoOp ∧
      classify 0x0FFF = .certainNoOp := by decide

theorem test_class_family_jump :
    classify 0x1ABC = .canonical := by decide

theorem test_class_family_call :
    classify 0x2ABC = .canonical := by decide

theorem test_class_family_three :
    classify 0x3A7F = .canonical := by decide

theorem test_class_family_four :
    classify 0x4A7F = .canonical := by decide

theorem test_class_family_five :
    classify 0x5AB0 = .canonical ∧
      classify 0x5AB7 = .aliasWord := by decide

theorem test_class_family_six :
    classify 0x6A7F = .canonical := by decide

theorem test_class_family_seven :
    classify 0x7A7F = .canonical := by decide

theorem test_class_family_eight :
    classify 0x8AB0 = .canonical ∧
      classify 0x8AB1 = .canonical ∧
      classify 0x8AB2 = .canonical ∧
      classify 0x8AB3 = .canonical ∧
      classify 0x8AB4 = .canonical ∧
      classify 0x8AB5 = .canonical ∧
      classify 0x8AB6 = .canonical ∧
      classify 0x8AB7 = .canonical ∧
      classify 0x8AB8 = .certainNoOp ∧
      classify 0x8ABD = .certainNoOp ∧
      classify 0x8ABE = .canonical ∧
      classify 0x8ABF = .certainNoOp := by decide

theorem test_class_family_nine :
    classify 0x9AB0 = .canonical ∧
      classify 0x9ABF = .aliasWord := by decide

theorem test_class_family_A :
    classify 0xAABC = .canonical := by decide

theorem test_class_family_B :
    classify 0xBABC = .canonical := by decide

theorem test_class_family_C :
    classify 0xCA7F = .canonical := by decide

theorem test_class_family_D :
    classify 0xDAB5 = .canonical ∧
      classify 0xDAB0 = .canonical := by decide

theorem test_class_family_E :
    classify 0xEA9E = .canonical ∧
      classify 0xEAA1 = .canonical ∧
      classify 0xEA0E = .readingDependent ∧
      classify 0xEA01 = .readingDependent ∧
      classify 0xEAEE = .readingDependent ∧
      classify 0xEA9F = .certainNoOp ∧
      classify 0xEA00 = .certainNoOp := by decide

theorem test_class_family_F :
    classify 0xFA07 = .canonical ∧
      classify 0xFA0A = .canonical ∧
      classify 0xFA15 = .canonical ∧
      classify 0xFA18 = .canonical ∧
      classify 0xFA1E = .canonical ∧
      classify 0xFA29 = .canonical ∧
      classify 0xFA33 = .canonical ∧
      classify 0xFA55 = .canonical ∧
      classify 0xFA65 = .canonical ∧
      classify 0xFA00 = .certainNoOp ∧
      classify 0xFA75 = .certainNoOp ∧
      classify 0xFA85 = .certainNoOp ∧
      classify 0xFAFF = .certainNoOp := by decide

/-- A byte string shorter than an instruction (R50). -/
theorem test_decode_truncated :
    decode Config.default [] = .error .truncated ∧ decode Config.default [0x12] = .error .truncated := by decide

/-- The host's view of a table word: bit 0 is the least significant bit of the one 16-bit word. -/
theorem test_table_words :
    decodeTableWord 16 0x00E0 = some .CLS ∧ decodeTableWord 16 0xD125 = some (.DRW 1 2 5) ∧
      decodeTableWord 16 0x0000 = some (.NOP 0x0000) := by decide

/-! ### One STEP per vector of 96_test_vectors_by_family.md, or a worked example of 95_test_vectors.md section 1 -/

/-- S2. -/
theorem test_S2_cls :
    look 0x00E0 (lit 0 0 (lit 17 5 (lit 63 31 base))) (fun t => (t.pc, t.fb)) = some (0x202, 0) := by decide +kernel

/-- T0.7b; under LowByte the cell stays lit (T0.7a). -/
theorem test_T0_7b_cls :
    look 0x0000 (lowNibble (lit 1 1 base)) (fun t => (t.pc, t.cell 1 1)) = some (0x202, false) := by decide +kernel

/-- T0.3. -/
theorem test_T0_3_ret :
    look 0x00EE (stacked 16 0xABC base) (fun t => (t.pc, t.sp, t.stk[15])) = some (0xABC, 15, 0xABC) := by decide

/-- T0.4. -/
theorem test_T0_4_ret_fault :
    look 0x00EE (base.setPc 0x300) (fun t => (t.pc, t.fault)) = some (0x300, latch .stackUnderflow 0) := by decide

/-- T1.1. -/
theorem test_T1_1_jp :
    look 0x1228 (base) (fun t => (t.pc, t.fault)) = some (0x228, none) := by decide

/-- T1.6: PC = 4094 is the last legal fetch address. -/
theorem test_T1_6_last_fetch :
    look 0x6A01 (base.setPc 0xFFE) (fun t => (t.pc, t.reg 10)) = some (0x1000, 1) := by decide

/-- T1.4. -/
theorem test_T1_4_fetch_fault :
    seen (step (base.setPc 0xFFF)) (fun t => (t.pc, t.fault)) = some (0xFFF, latch .fetchOob 0xFFF) := by decide

/-- T2.2. -/
theorem test_T2_2_call :
    look 0x2300 (stacked 15 0 base) (fun t => (t.pc, t.sp, t.stk[15])) = some (0x300, 16, 0x202) := by decide

/-- T2.3. -/
theorem test_T2_3_call_fault :
    look 0x2300 (stacked 16 0x204 base) (fun t => (t.pc, t.sp, t.fault)) = some (0x200, 16, latch .stackOverflow 0x10) := by decide

/-- T3.1. -/
theorem test_T3_1_se :
    look 0x332A (regs [(3, 0x2A)]) (fun t => t.pc) = some 0x204 := by decide

/-- T3.2. -/
theorem test_T3_2_se :
    look 0x332A (regs [(3, 0x2B)]) (fun t => t.pc) = some 0x202 := by decide

/-- T4.1. -/
theorem test_T4_1_sne :
    look 0x432A (regs [(3, 0x2A)]) (fun t => t.pc) = some 0x202 := by decide

/-- T4.2. -/
theorem test_T4_2_sne :
    look 0x432A (regs [(3, 0x2B)]) (fun t => t.pc) = some 0x204 := by decide

/-- T5.2. -/
theorem test_T5_2_se_reg :
    look 0x5120 (regs [(1, 7), (2, 8)]) (fun t => t.pc) = some 0x202 := by decide

/-- T5.4: an alias word. -/
theorem test_T5_4_se_reg :
    look 0x512B (regs [(1, 7), (2, 7)]) (fun t => t.pc) = some 0x204 := by decide

/-- T9.1. -/
theorem test_T9_1_sne_reg :
    look 0x9120 (regs [(1, 7), (2, 8)]) (fun t => t.pc) = some 0x204 := by decide

/-- T9.3: X = Y never skips. -/
theorem test_T9_3_sne_reg :
    look 0x9337 (regs [(3, 1)]) (fun t => t.pc) = some 0x202 := by decide

/-- S1b. -/
theorem test_S1b_ld :
    look 0x6FFF (regs [(3, 0x33)]) (fun t => (t.pc, t.reg 3, t.reg VF)) = some (0x202, 0x33, 0xFF) := by decide

/-- T7.2: wraps, and VF stays. -/
theorem test_T7_2_add :
    look 0x7201 (regs [(2, 0xFF), (VF, 5)]) (fun t => (t.reg 2, t.reg VF)) = some (0, 5) := by decide

/-- T8.1. -/
theorem test_T8_1_ld_reg :
    look 0x8010 (regs [(1, 0x3C)]) (fun t => (t.reg 0, t.reg 1)) = some (0x3C, 0x3C) := by decide

/-- T8.3. -/
theorem test_T8_3_or :
    look 0x8011 (regs [(0, 0xF0), (1, 0x0F), (VF, 1)]) (fun t => (t.reg 0, t.reg VF)) = some (0xFF, 1) := by decide

/-- T8.4. -/
theorem test_T8_4_and :
    look 0x8012 (regs [(0, 0xF0), (1, 0x3C), (VF, 1)]) (fun t => (t.reg 0, t.reg VF)) = some (0x30, 1) := by decide

/-- T8.5. -/
theorem test_T8_5_xor :
    look 0x8013 (regs [(0, 0xF0), (1, 0x3C), (VF, 1)]) (fun t => (t.reg 0, t.reg VF)) = some (0xCC, 1) := by decide

/-- T8.7. -/
theorem test_T8_7_add_reg :
    look 0x8014 (regs [(0, 0xC8), (1, 0x64)]) (fun t => (t.reg 0, t.reg VF)) = some (0x2C, 1) := by decide

/-- T8.13: the sum uses the old VF. -/
theorem test_T8_13_add_reg :
    look 0x81F4 (regs [(1, 0xF0), (VF, 0x20)]) (fun t => (t.reg 1, t.reg VF)) = some (0x10, 1) := by decide

/-- T8.16. -/
theorem test_T8_16_sub :
    look 0x8015 (regs [(0, 3), (1, 0x0A), (VF, 1)]) (fun t => (t.reg 0, t.reg VF)) = some (0xF9, 0) := by decide

/-- T8.19: Y = 15 subtracts the new flag. -/
theorem test_T8_19_sub :
    look 0x81F5 (regs [(1, 9), (VF, 5)]) (fun t => (t.reg 1, t.reg VF)) = some (8, 1) := by decide

/-- S5. -/
theorem test_S5_shr :
    look 0x8126 (regs [(1, 3), (2, 0xF0)]) (fun t => (t.reg 1, t.reg VF)) = some (1, 1) := by decide

/-- T8.28. -/
theorem test_T8_28_shr :
    look 0x8F06 (regs [(VF, 0xFF)]) (fun t => t.reg VF) = some 0 := by decide

/-- T8.31. -/
theorem test_T8_31_subn :
    look 0x8017 (regs [(0, 7), (1, 7), (VF, 1)]) (fun t => (t.reg 0, t.reg VF)) = some (0, 0) := by decide

/-- T8.32. -/
theorem test_T8_32_subn :
    look 0x81F7 (regs [(1, 5), (VF, 9)]) (fun t => (t.reg 1, t.reg VF)) = some (0xFC, 1) := by decide

/-- T8.35. -/
theorem test_T8_35_shl :
    look 0x850E (regs [(5, 0xC3)]) (fun t => (t.reg 5, t.reg VF)) = some (0x86, 1) := by decide

/-- T8.38. -/
theorem test_T8_38_shl :
    look 0x8F0E (regs [(VF, 0x80)]) (fun t => t.reg VF) = some 2 := by decide

/-- T8.40: selects nothing. -/
theorem test_T8_40_nop :
    look 0x8128 (regs [(1, 0x11), (2, 0x22), (VF, 1)]) (fun t => (t.pc, t.v.toList.take 3, t.reg VF)) = some (0x202, [0, 0x11, 0x22], 1) := by decide

/-- TA.2. -/
theorem test_TA_2_ld_i :
    look 0xAFFF (base.setI 0xFFFF) (fun t => t.i) = some 0xFFF := by decide

/-- TB.2: the largest reachable PC. -/
theorem test_TB_2_jp_v0 :
    look 0xBFFF (regs [(0, 0xFF)]) (fun t => t.pc) = some 0x10FE := by decide

/-- TC.1. -/
theorem test_TC_1_rnd :
    look 0xC30F (driven 0 0xB7 base) (fun t => t.reg 3) = some 7 := by decide

/-- TD.1: clipped at the right and at the bottom. -/
theorem test_TD_1_drw :
    look 0xD012 ((regsI [(0, 0x3E), (1, 0x1F)] 0x300).storeBytes 0x300 [0xFF, 0xFF]) (fun t => (t.reg VF, t.cell 62 31, t.fb == (lit 62 31 (lit 63 31 base)).fb)) = some (0, true, true) := by decide +kernel

/-- TD.7: a collision. -/
theorem test_TD_7_drw :
    look 0xD011 (lit 8 4 ((regsI [(0, 8), (1, 4)] 0x300).storeBytes 0x300 [0xC0])) (fun t => (t.reg VF, t.cell 8 4, t.cell 9 4)) = some (1, false, true) := by decide +kernel

/-- TD.10: the fault leaves VF. -/
theorem test_TD_10_drw_fault :
    look 0xD012 (regsI [(VF, 1)] 0xFFF) (fun t => (t.pc, t.reg VF, t.fault)) = some (0x200, 1, latch .dataOob 0xFFF) := by decide

/-- TE.1. -/
theorem test_TE_1_skp :
    look 0xE29E (driven 0x0400 0 (regs [(2, 10)])) (fun t => t.pc) = some 0x204 := by decide

/-- TE.5. -/
theorem test_TE_5_skp_fault :
    look 0xE29E (driven 0xFFFF 0 (regs [(2, 0x10)])) (fun t => (t.pc, t.fault)) = some (0x200, latch .keyOob 0x10) := by decide

/-- TE.4. -/
theorem test_TE_4_sknp :
    look 0xE2A1 (driven 0x0400 0 (regs [(2, 10)])) (fun t => t.pc) = some 0x202 := by decide

/-- TE.6. -/
theorem test_TE_6_sknp_fault :
    look 0xE2A1 (regs [(2, 0xFF)]) (fun t => (t.pc, t.fault)) = some (0x200, latch .keyOob 0xFF) := by decide

/-- TE.10b. -/
theorem test_TE_10b_sknp :
    look 0xE2F1 (lowNibble (regs [(2, 10)])) (fun t => t.pc) = some 0x204 := by decide

/-- TF.1. -/
theorem test_TF_1_ld_vx_dt :
    look 0xF307 (base.setDt 0x1E) (fun t => t.reg 3) = some 0x1E := by decide

/-- TF.2: no key pressed. -/
theorem test_TF_2_ld_vx_k :
    look 0xF50A (regs [(5, 0x77)]) (fun t => (t.pc, t.reg 5)) = some (0x200, 0x77) := by decide

/-- TF.3: the lowest pressed key. -/
theorem test_TF_3_ld_vx_k :
    look 0xF50A (driven 0x0208 0 (regs [(5, 0x77)])) (fun t => (t.pc, t.reg 5)) = some (0x202, 3) := by decide

/-- TF.6. -/
theorem test_TF_6_ld_dt :
    look 0xF315 (regs [(3, 0x3C)]) (fun t => (t.dt, t.st)) = some (0x3C, 0) := by decide

/-- TF.7. -/
theorem test_TF_7_ld_st :
    look 0xF318 (regs [(3, 5)]) (fun t => (t.dt, t.st, t.soundOn)) = some (0, 5, true) := by decide

/-- TF.11, with a VF that must stay. -/
theorem test_TF_11_add_i :
    look 0xF21E (regsI [(2, 1), (VF, 7)] 0xFFFF) (fun t => (t.i, t.reg VF)) = some (0, 7) := by decide

/-- TF.13. -/
theorem test_TF_13_ld_f :
    look 0xF429 (regs [(4, 0xFF)]) (fun t => t.i) = some 0x4FB := by decide

/-- TF.14, with the bytes around it. -/
theorem test_TF_14_ld_b :
    look 0xF733 (regsI [(7, 0x9C)] 0x400) (fun t => ((t.loadBytes 0x3FF 5), t.i)) = some ([0, 1, 5, 6, 0], 0x400) := by decide

/-- TF.18. -/
theorem test_TF_18_ld_b_fault :
    look 0xF733 (regsI [(7, 0x7B)] 0xFFE) (fun t => (t.loadBytes 0xFFE 2, t.fault)) = some ([0, 0], latch .dataOob 0xFFE) := by decide

/-- TF.19. -/
theorem test_TF_19_store :
    look 0xF255 (regsI [(0, 0x11), (1, 0x22), (2, 0x33), (3, 0x44)] 0x500) (fun t => (t.loadBytes 0x4FF 5, t.i)) = some ([0, 0x11, 0x22, 0x33, 0], 0x500) := by decide

/-- TF.22: no part is stored. -/
theorem test_TF_22_store_fault :
    look 0xF255 (regsI [(0, 0x11), (1, 0x22), (2, 0x33)] 0xFFE) (fun t => (t.loadBytes 0xFFE 2, t.fault)) = some ([0, 0], latch .dataOob 0xFFE) := by decide

/-- TF.23. -/
theorem test_TF_23_load :
    look 0xF265 ((regsI [(3, 0x99)] 0x500).storeBytes 0x500 [0x11, 0x22, 0x33, 0x44]) (fun t => (t.v.toList.take 4, t.i)) = some ([0x11, 0x22, 0x33, 0x99], 0x500) := by decide

/-- TF.24. -/
theorem test_TF_24_load_fault :
    look 0xF265 (regsI [(0, 9)] 0xFFE) (fun t => (t.reg 0, t.fault)) = some (9, latch .dataOob 0xFFE) := by decide

/-! ### Transactions: the vectors X1 to X15 and S9 to S11 of 95_test_vectors.md -/

/-- X1: registers, I, the stack and an overwritten glyph byte. -/
theorem test_X1_reset :
    seen (transact .reset ((stacked 5 7 (regsI [(3, 0x77)] 0xABC)).storeBytes 0x10 [0, 1])) (fun t => (t, t.byteAt 0x10)) =
      some (State.reset, 0x10) := by decide +kernel

/-- X2. -/
theorem test_X2_load_empty :
    base.applyLoad (some []) = (base, true) := rfl

/-- X3. -/
theorem test_X3_load :
    seen (transact (.load (some [0x12])) State.reset) (fun t => (t.byteAt 0x200, t.byteAt 0x201, t.loaded)) = some (0x12, 0, true) := by decide

/-- X6: the tail of the earlier image stays. -/
theorem test_X6_load :
    seen (runSchedule (boot [0x11, 0x22, 0x33, 0x44] ++ [.load (some [0xAA, 0xBB])]) base) (fun t => t.loadBytes 0x200 5) =
      some [0xAA, 0xBB, 0x33, 0x44, 0] := by decide

/-- S11. -/
theorem test_S11_load_longest :
    (State.reset.applyLoad (some (List.replicate 3584 0xAA))).2 = true := by decide +kernel

/-- S11. -/
theorem test_S11_load_too_long :
    State.reset.applyLoad (some (List.replicate 3585 0xAA)) = (State.reset, false) := by decide +kernel

/-- X8. -/
theorem test_X8_step_unloaded :
    step State.reset = .next State.reset := rfl

/-- X9. -/
theorem test_X9_step_faulted :
    step (base.latchFault .stackUnderflow 0) = .next (base.latchFault .stackUnderflow 0) := rfl

/-- X10. -/
theorem test_X10_tick_faulted :
    seen (transact .tick (((base.setDt 2).setSt 1).latchFault .stackUnderflow 0)) (fun t => (t.dt, t.st, t.fault)) =
      some (1, 0, latch .stackUnderflow 0) := by decide

/-- X13. -/
theorem test_X13_tick :
    seen (transact .tick ((base.setDt 0xFF).setSt 1)) (fun t => (t.dt, t.st, t.soundOn)) = some (0xFE, 0, false) := by decide

/-- S9. -/
theorem test_S9_ticks :
    seen (runSchedule [.tick, .tick, .tick] (base.setDt 1)) (fun t => (t.dt, t.st)) = some (0, 0) := by decide

/-- R178: the STEPs of a frame, all with one keypad sample, then one TICK. -/
theorem test_frame_schedule :
    frame 0x0084 [1, 2] = [.step 0x0084 1, .step 0x0084 2, .tick] := by decide

/-- R23, R155: bit y*64 + x of the framebuffer, and the code of a cause. -/
theorem test_outputs :
    (lit 1 1 base).fbOut = BitVec.twoPow 2048 65 ∧ base.loadedOut = true ∧
      (base.latchFault .keyOob 0x10).faultOut = some (5, 0x10) := by decide +kernel

/-! ### Memory: the canonical form -/

/-- Writing what reset leaves at an address removes its cell; a new cell goes in order. -/
theorem test_write_of_initial_unlists :
    Mem.write Config.default [(0x10, 0), (0x300, 5)] 0x10 0x10 = [(0x300, 5)] ∧
      Mem.write Config.default [(0x300, 5)] 0x2FF 7 = [(0x2FF, 7), (0x300, 5)] := by decide

/-- A repeated address, a falling one, a cell equal to what reset leaves, and an address that does not exist. -/
theorem test_wf_refuses :
    Mem.wf Config.default [(0x300, 5), (0x300, 6)] = false ∧ Mem.wf Config.default [(0x301, 5), (0x300, 6)] = false ∧
      Mem.wf Config.default [(0x300, 0)] = false ∧ Mem.wf Config.default [(0x1000, 1)] = false := by decide

/-! ### Witnesses: the hypotheses of every statement can be met -/

theorem witness_DecodeInvertsEncode :
    Instr.wellFormed Config.default (.NOP 0x0FFF) = true ∧ Instr.wellFormed nibbles (.DRW 15 15 15) = true := by decide

/-- The words of each clause of the opcode map with every operand bit set; the result statements share these clauses. -/
theorem witness_DecodesTo :
    (0x0FE0 : Word) &&& 0xF0FF = 0x00E0 ∧
      (0x0FEE : Word) &&& 0xF0FF = 0x00EE ∧
      (0x1FFF : Word) &&& 0xF000 = 0x1000 ∧
      (0x2FFF : Word) &&& 0xF000 = 0x2000 ∧
      (0x3FFF : Word) &&& 0xF000 = 0x3000 ∧
      (0x4FFF : Word) &&& 0xF000 = 0x4000 ∧
      (0x5FFF : Word) &&& 0xF000 = 0x5000 ∧
      (0x6FFF : Word) &&& 0xF000 = 0x6000 ∧
      (0x7FFF : Word) &&& 0xF000 = 0x7000 ∧
      (0x8FF0 : Word) &&& 0xF00F = 0x8000 ∧
      (0x8FF1 : Word) &&& 0xF00F = 0x8001 ∧
      (0x8FF2 : Word) &&& 0xF00F = 0x8002 ∧
      (0x8FF3 : Word) &&& 0xF00F = 0x8003 ∧
      (0x8FF4 : Word) &&& 0xF00F = 0x8004 ∧
      (0x8FF5 : Word) &&& 0xF00F = 0x8005 ∧
      (0x8FF6 : Word) &&& 0xF00F = 0x8006 ∧
      (0x8FF7 : Word) &&& 0xF00F = 0x8007 := by decide

theorem witness_DecodesTo_more :
    (0x8FFE : Word) &&& 0xF00F = 0x800E ∧
      (0x9FFF : Word) &&& 0xF000 = 0x9000 ∧
      (0xAFFF : Word) &&& 0xF000 = 0xA000 ∧
      (0xBFFF : Word) &&& 0xF000 = 0xB000 ∧
      (0xCFFF : Word) &&& 0xF000 = 0xC000 ∧
      (0xDFFF : Word) &&& 0xF000 = 0xD000 ∧
      (0xEF9E : Word) &&& 0xF0FF = 0xE09E ∧
      (0xEFA1 : Word) &&& 0xF0FF = 0xE0A1 ∧
      (0xFF07 : Word) &&& 0xF0FF = 0xF007 ∧
      (0xFF0A : Word) &&& 0xF0FF = 0xF00A ∧
      (0xFF15 : Word) &&& 0xF0FF = 0xF015 ∧
      (0xFF18 : Word) &&& 0xF0FF = 0xF018 ∧
      (0xFF1E : Word) &&& 0xF0FF = 0xF01E ∧
      (0xFF29 : Word) &&& 0xF0FF = 0xF029 ∧
      (0xFF33 : Word) &&& 0xF0FF = 0xF033 ∧
      (0xFF55 : Word) &&& 0xF0FF = 0xF055 ∧
      (0xFF65 : Word) &&& 0xF0FF = 0xF065 := by decide

theorem witness_OnlyReadingDependentWordsVary :
    classify 0x00E0 = .canonical ∧ classify 0x0AE0 = .aliasWord ∧ classify 0x0123 = .certainNoOp ∧
      classify 0x0000 = .readingDependent := by decide

theorem witness_SelectorsChooseTheKey :
    nibbles.sub0 = .lowNibble ∧ nibbles.subE = .lowNibble ∧ Config.default.sub0 = .lowByte ∧ Config.default.subE = .lowByte ∧
      (0x0FF0 : Word) &&& 0xF000 = 0 ∧ (0xE0AE : Word) &&& 0xF000 = 0xE000 := by decide

theorem witness_StepFollowsItsStages_ignored :
    State.reset.loaded = false ∧ (base.latchFault .keyOob 16).fault ≠ none := by decide

theorem witness_StepFollowsItsStages_fault :
    base.loaded = true ∧ base.fault = none ∧ 4094 < (base.setPc 4095).pc.toNat := by decide

theorem witness_StepFollowsItsStages_fetch :
    (base.setPc 4094).pc.toNat ≤ 4094 ∧
      (0 : Word).toNat = ((base.setPc 4094).byteAt 4094).toNat * 256 + ((base.setPc 4094).byteAt 4095).toNat := by decide

/-- A loaded state whose next word is `word`. -/
def ready (word : Nat) (s : State) : State := s.withFetchWord 16 word

/-- The decoded instruction at the program counter. -/
def next (s : State) : Except DecodeError (Instr × List Byte) :=
  decode s.cfg [s.byteAt s.pc.toNat, s.byteAt (s.pc.toNat + 1)]

theorem witness_StepRunsDecodedInstruction :
    (ready 0x6A2F (base.setPc 4094)).loaded = true ∧ (ready 0x6A2F (base.setPc 4094)).fault = none ∧
      (ready 0x6A2F (base.setPc 4094)).pc.toNat ≤ 4094 ∧
      next (ready 0x6A2F (base.setPc 4094)) = .ok (.LD_imm 10 0x2F, []) := ⟨by decide, by decide, by decide, rfl⟩

theorem witness_FaultConditionsAreExact :
    next (ready 0x00EE base) = .ok (.RET, []) ∧ (ready 0x00EE base).loaded = true ∧ (ready 0x00EE base).fault = none ∧
      faultOf .RET (ready 0x00EE base) = latch .stackUnderflow 0 := ⟨rfl, by decide, by decide, by decide⟩

theorem witness_FaultingStepIsPrecise :
    (base.setPc 4095).fault = none ∧ ∃ t, step (base.setPc 4095) = .next t ∧ t.fault ≠ none := ⟨by decide, _, rfl, by decide⟩

theorem witness_FaultingStepIsPrecise_instruction :
    (ready 0x00EE base).fault = none ∧ ∃ t, step (ready 0x00EE base) = .next t ∧ t.fault ≠ none := ⟨by decide, _, rfl, by decide⟩

theorem witness_InstructionFaultsChangeOnlyTheLatch :
    faultOf .RET base = latch .stackUnderflow 0 ∧ faultOf (.CALL 0x300) (stacked 16 0 base) = latch .stackOverflow 16 ∧
      faultOf (.DRW 0 1 2) (base.setI 4095) = latch .dataOob 4095 ∧ faultOf (.LD_B 7) (base.setI 4094) = latch .dataOob 4094 ∧
      faultOf (.LD_mem_Vx 2) (base.setI 4094) = latch .dataOob 4094 ∧ faultOf (.LD_Vx_mem 0) (base.setI 4096) = latch .dataOob 4096 ∧
      faultOf (.SKP 2) (regs [(2, 16)]) = latch .keyOob 16 ∧ faultOf (.SKNP 2) (regs [(2, 255)]) = latch .keyOob 255 := by decide

theorem witness_WriteMatrixHolds :
    faultOf .RET (stacked 1 0x204 base) = none ∧ faultOf (.CALL 0x300) (stacked 15 0 base) = none ∧
      faultOf (.DRW 0 1 1) (base.setI 4095) = none ∧ faultOf (.DRW 0 1 0) (base.setI 0xFFFF) = none ∧
      faultOf (.LD_B 7) (base.setI 4093) = none ∧ faultOf (.LD_mem_Vx 2) (base.setI 4093) = none ∧
      faultOf (.LD_Vx_mem 0) (base.setI 4095) = none ∧ faultOf (.SKP 2) (regs [(2, 15)]) = none ∧
      faultOf (.SKNP 2) (regs [(2, 15)]) = none ∧ faultOf .CLS base = none := by decide

theorem witness_InputsReadOnlyWhereNamed :
    (readsKeys (.SKP 2) = true ∧ ({ keys := 1, rnd := 9, sample := 4 } : Inputs).keys = (driven 1 0 base).inputs.keys) ∧
      (readsRnd (.RND 2 3) = true ∧ ({ keys := 8, rnd := 7, sample := 4 } : Inputs).rnd = (driven 1 7 base).inputs.rnd) ∧
      readsKeys (.ADD_I 3) = false ∧ readsRnd (.ADD_I 3) = false ∧ exec (.ADD_I 3) base = .next (base.setI 0) := ⟨by decide, by decide, by decide, by decide, rfl⟩

theorem witness_ReturnResult :
    0 < (stacked 1 0x204 base).sp.val ∧ 0 < (stacked 16 0xABC base).sp.val ∧ base.sp.val = 0 := by decide

theorem witness_CallResult :
    base.sp.val < 16 ∧ (stacked 15 0 base).sp.val < 16 ∧ (stacked 16 0 base).sp.val = 16 := by decide

theorem witness_ReturnGoesBackAfterCall :
    (stacked 15 0 base).sp.val < 16 ∧ ∃ t u, exec (.CALL 0x300) (stacked 15 0 base) = .next t ∧ u = t.setI 5 ∧
      u.stk = t.stk ∧ u.sp = t.sp := ⟨by decide, _, _, rfl, rfl, rfl, rfl⟩

theorem witness_KeySkipResults :
    ((regs [(2, 0)]).reg 2).toNat ≤ 15 ∧ ((regs [(2, 15)]).reg 2).toNat ≤ 15 ∧ 15 < ((regs [(2, 16)]).reg 2).toNat := by decide

/-- The hypothesis X not 15 of the statements about 8XY4 to 8XYE. -/
theorem witness_AddWithCarryResult :
    (0 : Reg) ≠ VF ∧ (14 : Reg) ≠ VF := by decide

theorem witness_KeyWaitResult_pressed :
    (driven 0x1080 0 base).inputs.keys.getLsbD 7 = true ∧ ∀ j : Reg, j < 7 → (driven 0x1080 0 base).inputs.keys.getLsbD j.val = false := by decide

theorem witness_KeyWaitResult_first_key :
    (driven 0x0001 0 base).inputs.keys.getLsbD 0 = true ∧ ∀ j : Reg, j < 0 → (driven 0x0001 0 base).inputs.keys.getLsbD j.val = false := by decide

theorem witness_KeyWaitResult_none :
    (∀ k : Reg, (ready 0xF60A base).inputs.keys.getLsbD k.val = false) ∧ (ready 0xF60A base).loaded = true ∧
      (ready 0xF60A base).fault = none ∧ (ready 0xF60A base).pc.toNat ≤ 4094 ∧ next (ready 0xF60A base) = .ok (.LD_Vx_K 6, []) := ⟨by decide, by decide, by decide, by decide, rfl⟩

theorem witness_DecimalStoreResult :
    (base.setI 4093).i.toNat + 2 ≤ 4095 ∧ 4095 < (base.setI 4094).i.toNat + 2 := by decide

/-- RegisterStoreResult and RegisterLoadResult. -/
theorem witness_RegisterTransferResults :
    (base.setI 4093).i.toNat + (2 : Reg).val ≤ 4095 ∧ 4095 < (base.setI 4094).i.toNat + (2 : Reg).val ∧
      (base.setI 4080).i.toNat + (15 : Reg).val ≤ 4095 ∧ (base.setI 4095).i.toNat + (0 : Reg).val ≤ 4095 := by decide

theorem witness_StoreThenLoadRoundTrip :
    (regsI [(0, 0xDE), (1, 0xAD)] 4094).i.toNat + (1 : Reg).val ≤ 4095 ∧
      ∃ t u, exec (.LD_mem_Vx 1) (regsI [(0, 0xDE), (1, 0xAD)] 4094) = .next t ∧ u = t.setReg 0 0 ∧
        u.i = (regsI [(0, 0xDE), (1, 0xAD)] 4094).i ∧ ∀ a : Nat, 4094 ≤ a → a ≤ 4094 + (1 : Reg).val → u.byteAt a = t.byteAt a := ⟨by decide, _, _, rfl, rfl, rfl, fun _ _ _ => rfl⟩

/-- The store of program P7 of 95_test_vectors.md section 5. -/
theorem witness_StoreIsSeenByNextFetch :
    (regsI [(0, 0x12), (1, 0x0A)] 0x208).i.toNat + (1 : Reg).val ≤ 4095 ∧
      ∃ t u, exec (.LD_mem_Vx 1) (regsI [(0, 0x12), (1, 0x0A)] 0x208) = .next t ∧ u = t.setPc 0x208 ∧
        (1 : Reg).val = (0 : Reg).val + 1 ∧ (1 : Reg) ≤ 1 ∧ u.mem = t.mem ∧ u.cfg = t.cfg ∧ u.pc.toNat = 0x208 + (0 : Reg).val := ⟨by decide, _, _, rfl, rfl, rfl, Nat.le_refl _, rfl, rfl, rfl⟩

theorem witness_DrawResult :
    ((0 : BitVec 4).toNat = 0) ∧ (base.setI 4095).i.toNat + (1 : BitVec 4).toNat - 1 ≤ 4095 ∧
      (1 ≤ (2 : BitVec 4).toNat ∧ 4095 < (base.setI 4095).i.toNat + (2 : BitVec 4).toNat - 1) := by decide

/-- The situation of S6. -/
theorem witness_DrawTwiceRestoresFramebuffer :
    ∃ t u, exec (.DRW 1 2 1) (regsI [(1, 10), (2, 5)] 0x300) = .next t ∧ u = t.setPc 0x202 ∧
      u.fb = t.fb ∧ u.i = 0x300 ∧ u.reg 1 = 10 ∧ u.reg 2 = 5 ∧
      ∀ a : Nat, 0x300 ≤ a → a < 0x300 + (1 : BitVec 4).toNat → u.byteAt a = (regsI [(1, 10), (2, 5)] 0x300).byteAt a := ⟨_, _, rfl, rfl, rfl, rfl, by decide, by decide, fun _ _ _ => rfl⟩

theorem witness_UnselectedWordsAreNoOps :
    (ready 0x0123 base).loaded = true ∧ (ready 0x0123 base).fault = none ∧ (ready 0x0123 base).pc.toNat ≤ 4094 ∧
      (0x0123 : Word).toNat = ((ready 0x0123 base).byteAt 0x200).toNat * 256 + ((ready 0x0123 base).byteAt 0x201).toNat ∧
      selectsNothing (ready 0x0123 base).cfg 0x0123 = true := by decide

theorem witness_StepKeepsInvariant :
    (ready 0xF155 (regsI [(0, 0x12)] 0x300)).Inv ∧ ∃ t, step (ready 0xF155 (regsI [(0, 0x12)] 0x300)) = .next t ∧
      t.pc ≠ (ready 0xF155 (regsI [(0, 0x12)] 0x300)).pc := ⟨⟨by decide, by decide, by decide⟩, _, rfl, by decide⟩

theorem witness_ResetGivesResetValues :
    (79 : Nat) < 80 ∧ 80 ≤ (80 : Nat) ∧ (4095 : Nat) < 4096 := by decide

theorem witness_LoadSucceeds :
    ([] : List Byte).length ≤ 3584 ∧ (List.replicate 3584 (0xAA : Byte)).length ≤ 3584 ∧
      (3583 : Nat) < (List.replicate 3584 (0xAA : Byte)).length := by decide +kernel

theorem witness_LoadFailureChangesNothing :
    3584 < (List.replicate 3585 (0xAA : Byte)).length := by decide +kernel

theorem witness_OnlyResetClearsFault :
    (base.latchFault .keyOob 16).fault = latch .keyOob 16 ∧ Transaction.step 0 0 ≠ .reset ∧ Transaction.tick ≠ .reset ∧
      Transaction.load (some [1]) ≠ .reset := by decide

theorem witness_LoadedChangesOnlyByLoadAndReset :
    (∃ t, transact .reset base = .next t ∧ t.loaded ≠ base.loaded) ∧
      ∃ t, transact (.load (some [0x12])) State.reset = .next t ∧ t.loaded ≠ State.reset.loaded := ⟨⟨_, rfl, by decide⟩, _, rfl, by decide⟩

theorem witness_ParametersNeverChange :
    ∃ t, runSchedule [.reset, .load (some [0x12]), .step 0 0, .tick] (lowNibble base) = .next t := ⟨_, rfl⟩

theorem witness_ParkedIsFixedPointOfStep :
    (ready 0x1200 base).parked ∧ (ready 0x1FFE (base.setPc 0xFFE)).parked := ⟨⟨by decide, by decide, by decide, by decide, by decide⟩, by decide, by decide, by decide, by decide, by decide⟩

theorem witness_BootRunsFirstTwoBytes :
    ([] : List Byte).length + 2 ≤ 3584 ∧ (List.replicate 3582 (0xAA : Byte)).length + 2 ≤ 3584 ∧
      (0x6A2F : Word).toNat = (0x6A : Byte).toNat * 256 + (0x2F : Byte).toNat := by decide +kernel

theorem witness_OutputsFollowState :
    (63 : Nat) < 64 ∧ (31 : Nat) < 32 ∧ base.fault = none ∧ (base.latchFault .keyOob 16).fault = latch .keyOob 16 := by decide

end Sys2Proof.Tests
end

section
/-! The parameters along a schedule (00_scope.md R4): what no instruction writes, what a transaction leaves of it, and
the induction over schedules. -/

namespace Sys2Proof.Machine

/-! ### The fields no instruction writes, after the updates with a branch or a loop -/

@[simp] theorem State.skipIf_cfg (s : State) (c : Bool) : (s.skipIf c).cfg = s.cfg := by simp [State.skipIf_eq]
@[simp] theorem State.skipIf_loaded (s : State) (c : Bool) : (s.skipIf c).loaded = s.loaded := by simp [State.skipIf_eq]
@[simp] theorem State.skipIf_inputs (s : State) (c : Bool) : (s.skipIf c).inputs = s.inputs := by simp [State.skipIf_eq]

@[simp] theorem State.setRegs_cfg (s : State) (k : Nat) (bs : List Byte) : (s.setRegs k bs).cfg = s.cfg := by
  rw [State.setRegs_eq_v]
@[simp] theorem State.setRegs_loaded (s : State) (k : Nat) (bs : List Byte) : (s.setRegs k bs).loaded = s.loaded := by
  rw [State.setRegs_eq_v]
@[simp] theorem State.setRegs_inputs (s : State) (k : Nat) (bs : List Byte) : (s.setRegs k bs).inputs = s.inputs := by
  rw [State.setRegs_eq_v]

@[simp] theorem State.applyReset_cfg (s : State) : s.applyReset.cfg = s.cfg := rfl

@[simp] theorem State.applyLoad_cfg (s : State) (source : Option (List Byte)) : (s.applyLoad source).1.cfg = s.cfg := by
  obtain ⟨bytes, -, -, h⟩ | ⟨-, h⟩ := s.applyLoad_cases source
  · simp [h]
  · simp [h]

/-! ### One instruction, one STEP, one transaction -/

/-- No instruction writes the parameters, LOADED or the inputs, whether it faults or not: they stand in no row of the
write matrix (10_state.md R26), and fault entry writes only the latch (60_exceptions.md R141). -/
theorem exec_cfg_loaded_inputs {i : Instr} {s t : State} (h : exec i s = .next t) :
    t.cfg = s.cfg ∧ t.loaded = s.loaded ∧ t.inputs = s.inputs := by
  cases i
  case RET =>
    obtain ⟨-, hp⟩ | ⟨_, hp⟩ := s.pop_cases
    all_goals
      simp only [exec, execRet, hp, Host.Outcome.next.injEq] at h
      subst h; simp
  case CALL nnn =>
    obtain ⟨-, hp⟩ | ⟨_, hp⟩ := s.push_cases s.pc
    all_goals
      simp only [exec, execCall, hp, Host.Outcome.next.injEq] at h
      subst h; simp
  case LD_Vx_K x =>
    obtain ⟨hk, -⟩ | ⟨k, hk, -⟩ := s.lowestKey_cases
    all_goals
      simp only [exec, execLdVxK, hk, Host.Outcome.next.injEq] at h
      subst h; simp
  case DRW | SKP | SKNP | LD_B | LD_mem_Vx | LD_Vx_mem =>
    -- the instructions that check an operand first: one state when it is in range, the fault's when it is not
    simp only [exec, execDrw, execSkp, execSknp, execLdB, execLdMemVx, execLdVxMem] at h
    split at h
    all_goals cases h; simp
  all_goals cases h; simp

theorem step_cfg {s t : State} (h : step s = .next t) : t.cfg = s.cfg := by
  obtain ⟨-, rfl⟩ | ⟨-, -, rfl⟩ | ⟨-, op, u, -, hu, rfl⟩ := step_cases h
  · rfl
  · simp
  · simp [(exec_cfg_loaded_inputs hu).1]

theorem transact_cfg {tr : Transaction} {s t : State} (h : transact tr s = .next t) : t.cfg = s.cfg := by
  cases tr with
  | reset => cases h; simp
  | load source => cases h; simp
  | step keys rnd => simpa using step_cfg h
  | tick => cases h; simp

/-! ### Schedules -/

/-- A schedule that answers a state answers one after its first transaction, and the rest goes on from there. -/
theorem runSchedule_cons_eq_next {tr : Transaction} {ts : List Transaction} {s t : State}
    (h : runSchedule (tr :: ts) s = .next t) : ∃ u, transact tr s = .next u ∧ runSchedule ts u = .next t := by
  cases hu : transact tr s with
  | next u => exact ⟨u, rfl, by rwa [runSchedule_cons hu] at h⟩
  | fault r => simp [runSchedule, hu] at h
  | refused r => simp [runSchedule, hu] at h

/-- What every transaction keeps, every schedule keeps. -/
theorem runSchedule_invariant {P : State → Prop}
    (keeps : ∀ (tr : Transaction) (s t : State), transact tr s = .next t → P s → P t)
    {ts : List Transaction} {s t : State} (h : runSchedule ts s = .next t) (hs : P s) : P t := by
  induction ts generalizing s with
  | nil => cases h; exact hs
  | cons tr ts ih =>
    obtain ⟨u, hu, ht⟩ := runSchedule_cons_eq_next h
    exact ih ht (keeps tr s u hu hs)

/-- Settles O49: no transaction writes the parameters, so having those of the start is kept along the schedule. -/
theorem parametersNeverChange : Obligations.ParametersNeverChange := by
  unfold Obligations.ParametersNeverChange
  intro ts s t h
  have keeps (tr : Transaction) (u v : State) (huv : transact tr u = .next v) (hu : u.cfg = s.cfg) : v.cfg = s.cfg :=
    (transact_cfg huv).trans hu
  exact runSchedule_invariant keeps h rfl

end Sys2Proof.Machine
end

section
/-! What an instruction does when its fault condition holds, and what it leaves unchanged when it completes: the fault
table (60_exceptions.md R140) against the checks of `exec`, and the write matrix (10_state.md R26). -/

namespace Sys2Proof.Machine

/-! ### The range check of a data instruction is its fault condition -/

/-- A fault condition that says some byte of the range does not exist is the failure of the range check (20_memory.md
R40). -/
theorem ite_eq_ite_inMemory {P : Prop} [Decidable P] {base len : Nat} (h : P ↔ len ≠ 0 ∧ 4096 < base + len)
    (r : FaultRecord) : (if P then some r else none) = if inMemory base len then none else some r := by
  have hP : P ↔ ¬ inMemory base len = true := by rw [h, inMemory_iff]; omega
  simp only [hP, ite_not]

theorem faultOf_DRW (x y : Reg) (n : BitVec 4) (s : State) : faultOf (.DRW x y n) s =
    if inMemory s.dataBase n.toNat then none else some { cause := .dataOob, info := s.i } :=
  ite_eq_ite_inMemory (by
    have hn : n ≠ 0 ↔ n.toNat ≠ 0 := BitVec.toNat_ne_iff_ne.symm
    rw [hn, State.dataBase]; omega) _

theorem faultOf_LD_B (x : Reg) (s : State) : faultOf (.LD_B x) s =
    if inMemory s.dataBase 3 then none else some { cause := .dataOob, info := s.i } :=
  ite_eq_ite_inMemory (by rw [State.dataBase]; omega) _

theorem faultOf_LD_mem_Vx (x : Reg) (s : State) : faultOf (.LD_mem_Vx x) s =
    if inMemory s.dataBase (x.val + 1) then none else some { cause := .dataOob, info := s.i } :=
  ite_eq_ite_inMemory (by rw [State.dataBase]; omega) _

theorem faultOf_LD_Vx_mem (x : Reg) (s : State) : faultOf (.LD_Vx_mem x) s =
    if inMemory s.dataBase (x.val + 1) then none else some { cause := .dataOob, info := s.i } :=
  faultOf_LD_mem_Vx x s

/-! ### Return and call -/

theorem execRet_of_pos {s : State} (h : 0 < s.sp.val) : execRet s =
    .next (State.setPc { s with sp := ⟨s.sp.val - 1, by omega⟩ } (s.stk[s.sp.val - 1]'(by omega))) := by
  simp [execRet, State.pop_of_pos h]

theorem execRet_of_empty {s : State} (h : s.sp.val = 0) : execRet s = .next (s.raiseFault .stackUnderflow 0) := by
  simp [execRet, State.pop_of_empty h]

theorem execCall_of_lt {s : State} (nnn : BitVec 12) (h : s.sp.val < 16) : execCall nnn s =
    .next (State.setPc { s with stk := s.stk.set s.sp.val s.pc h, sp := ⟨s.sp.val + 1, by omega⟩ }
      (addrOperand nnn)) := by
  simp [execCall, State.push_of_lt s.pc h]

theorem execCall_of_full {s : State} (nnn : BitVec 12) (h : s.sp.val = 16) :
    execCall nnn s = .next (s.raiseFault .stackOverflow 16) := by
  simp [execCall, State.push_of_full s.pc h]

/-! ### An instruction that faults -/

/-- Where the table of 60_exceptions.md R140 names a fault, the instruction raises that one. -/
theorem exec_of_faultOf_eq_some {i : Instr} {s : State} {r : FaultRecord} (h : faultOf i s = some r) :
    exec i s = .next (s.raiseFault r.cause r.info) := by
  cases i
  case RET =>
    obtain ⟨hsp, ⟨⟩⟩ := Option.ite_none_right_eq_some.mp h
    exact execRet_of_empty hsp
  case CALL nnn =>
    obtain ⟨hsp, ⟨⟩⟩ := Option.ite_none_right_eq_some.mp h
    exact execCall_of_full nnn hsp
  case SKP | SKNP =>
    obtain ⟨hkey, ⟨⟩⟩ := Option.ite_none_right_eq_some.mp h
    exact if_pos hkey
  case DRW | LD_B | LD_mem_Vx | LD_Vx_mem =>
    simp only [faultOf_DRW, faultOf_LD_B, faultOf_LD_mem_Vx, faultOf_LD_Vx_mem] at h
    obtain ⟨hm, ⟨⟩⟩ := Option.ite_none_left_eq_some.mp h
    exact if_neg hm
  all_goals cases h

/-! ### An instruction that completes -/

/-- Return and call write pc and the stack. -/
theorem respected_setStack_setPc (s : State) (stk : Vector Word 16) (sp : Fin 17) (w : Word) :
    WriteSet.Respected { pc := true, stack := true } s (State.setPc { s with stk := stk, sp := sp } w) := by
  constructor <;> simp [State.reg, State.byteAt]

/-- The draw writes VF and the framebuffer. -/
theorem respected_setFb_setFlag (s : State) (fb : BitVec 2048) (f : Bool) :
    WriteSet.Respected { regs := [VF], screen := true } s ((s.setFb fb).setFlag f) := by
  constructor <;> simp
  exact fun r h => by simp [State.setFlag_reg, h]

/-- The key wait writes its register, or takes pc back (49_family_F_misc.md R126). -/
theorem execLdVxK_respects (x : Reg) (s : State) : ∃ t, execLdVxK x s = .next t ∧ t.fault = s.fault ∧
    WriteSet.Respected { pc := true, regs := [x] } s t := by
  refine ⟨_, rfl, ?_⟩
  cases s.lowestKey with
  | some k =>
    refine ⟨rfl, ?_⟩
    constructor <;> simp
    exact fun r h => State.setReg_reg_of_ne _ _ h
  | none =>
    refine ⟨rfl, ?_⟩
    constructor <;> simp

/-- A block load writes the registers from V0 to VX (49_family_F_misc.md R133). -/
theorem respected_setRegs (s : State) (x : Reg) (bs : List Byte) (hbs : bs.length = x.val + 1) :
    WriteSet.Respected { regs := (List.finRange 16).filter fun k => decide (k ≤ x) } s (s.setRegs 0 bs) := by
  have above (r : Reg) (hr : x < r) : (s.setRegs 0 bs).reg r = s.reg r := by
    rw [State.setRegs_reg _ _ _ (by omega), dif_neg (by rw [Fin.lt_def] at hr; omega)]
  rw [State.setRegs_eq_v] at above ⊢
  constructor <;> simp [State.byteAt]
  exact above

/-- Settles O12: an instruction without a check has the frame of the update it ends in; one with a check has it because
the check is the fault condition, which does not hold. -/
theorem writeMatrixHolds : Obligations.WriteMatrixHolds := by
  unfold Obligations.WriteMatrixHolds
  intro i s hf
  cases i
  case CLS => exact ⟨_, rfl, rfl, respected_setFb s _⟩
  case RET =>
    have hsp : s.sp.val ≠ 0 := by simpa [faultOf] using hf
    exact ⟨_, execRet_of_pos (Nat.pos_of_ne_zero hsp), rfl, respected_setStack_setPc s s.stk _ _⟩
  case CALL nnn =>
    have hsp : s.sp.val ≠ 16 := by simpa [faultOf] using hf
    exact ⟨_, execCall_of_lt nnn (by omega), rfl, respected_setStack_setPc s _ _ _⟩
  case JP | JP_V0 => exact ⟨_, rfl, rfl, respected_setPc s _⟩
  case SE_imm | SNE_imm | SE_reg | SNE_reg => exact ⟨_, rfl, by simp [State.skipIf_eq], respected_skipIf s _⟩
  case SKP | SKNP =>
    exact ⟨_, if_neg (by simpa [faultOf] using hf), by simp [State.skipIf_eq], respected_skipIf s _⟩
  case LD_imm | ADD_imm | LD_reg | OR | AND | XOR | RND | LD_Vx_DT => exact ⟨_, rfl, rfl, respected_setReg s _ _⟩
  case ADD_reg | SUB | SHR | SUBN | SHL => exact ⟨_, rfl, rfl, respected_setFlag_setReg s _ _ _⟩
  case LD_I | ADD_I | LD_F => exact ⟨_, rfl, rfl, respected_setI s _⟩
  case LD_DT_Vx => exact ⟨_, rfl, rfl, respected_setDt s _⟩
  case LD_ST_Vx => exact ⟨_, rfl, rfl, respected_setSt s _⟩
  case LD_Vx_K x => exact execLdVxK_respects x s
  case DRW x y n =>
    have hm : inMemory s.dataBase n.toNat = true := by simpa [faultOf_DRW] using hf
    exact ⟨_, if_pos hm, rfl, respected_setFb_setFlag s _ _⟩
  case LD_B x =>
    have hm : inMemory s.dataBase 3 = true := by simpa [faultOf_LD_B] using hf
    exact ⟨_, if_pos hm, rfl, respected_storeBytes s _ _ _ rfl⟩
  case LD_mem_Vx x =>
    have hm : inMemory s.dataBase (x.val + 1) = true := by simpa [faultOf_LD_mem_Vx] using hf
    exact ⟨_, if_pos hm, rfl, respected_storeBytes s _ _ _ (s.regBlock_length x)⟩
  case LD_Vx_mem x =>
    have hm : inMemory s.dataBase (x.val + 1) = true := by simpa [faultOf_LD_Vx_mem] using hf
    exact ⟨_, if_pos hm, by rw [State.setRegs_eq_v], respected_setRegs s x _ (s.loadBytes_length _ _)⟩
  case NOP => exact ⟨s, rfl, rfl, by constructor <;> simp⟩

/-- Every instruction answers a next state: it completes or it faults. -/
theorem exec_eq_next (i : Instr) (s : State) : ∃ t, exec i s = .next t := by
  cases hf : faultOf i s with
  | none =>
    obtain ⟨t, ht, -, -⟩ := writeMatrixHolds i s hf
    exact ⟨t, ht⟩
  | some r => exact ⟨_, exec_of_faultOf_eq_some hf⟩

end Sys2Proof.Machine
end

section
/-! The inputs of a STEP (10_state.md R22): who reads them. -/

namespace Sys2Proof.Machine

/-- A change to the next state of a check that answers one either way. -/
theorem mapNext_ite_next (f : State → State) (P : Prop) [Decidable P] (a b : State) :
    mapNext f (if P then .next a else .next b) = if P then .next (f a) else .next (f b) :=
  apply_ite (mapNext f) P _ _

theorem State.setRegs_with_inputs (s : State) (n : Inputs) (k : Nat) (bs : List Byte) :
    State.setRegs { s with inputs := n } k bs = { s.setRegs k bs with inputs := n } := by
  induction bs generalizing s k with
  | nil => rfl
  | cons b bs ih => exact ih (s.setReg (Fin.ofNat 16 k) b) (k + 1)

theorem State.skipIf_with_inputs (s : State) (n : Inputs) (c : Bool) :
    State.skipIf { s with inputs := n } c = { s.skipIf c with inputs := n } := by
  cases c <;> rfl

/-- With other inputs that agree where it reads them, an instruction acts the same (40_step_cycle.md R77). -/
theorem exec_with_inputs {i : Instr} (s : State) (n : Inputs)
    (hkeys : readsKeys i = true → n.keys = s.inputs.keys) (hrnd : readsRnd i = true → n.rnd = s.inputs.rnd) :
    exec i { s with inputs := n } = mapNext (fun t => { t with inputs := n }) (exec i s) := by
  cases i
  case RET =>
    by_cases hsp : s.sp.val = 0
    · simp only [exec, execRet_of_empty, hsp]; rfl
    · have hsp : 0 < s.sp.val := Nat.pos_of_ne_zero hsp
      simp only [exec, execRet_of_pos, hsp]; rfl
  case CALL nnn =>
    by_cases hsp : s.sp.val = 16
    · simp only [exec, execCall_of_full, hsp]; rfl
    · have hsp : s.sp.val < 16 := by omega
      simp only [exec, execCall_of_lt, hsp]; rfl
  case SE_imm | SNE_imm | SE_reg | SNE_reg => exact congrArg Host.Outcome.next (s.skipIf_with_inputs n _)
  case RND x nn =>
    have hr : n.rnd = s.inputs.rnd := hrnd rfl
    simp only [exec, execRnd, hr]; rfl
  case SKP | SKNP =>
    have hk (k : Nat) : State.keyDown { s with inputs := n } k = s.keyDown k := by simp [State.keyDown, hkeys rfl]
    simp only [exec, execSkp, execSknp, mapNext_ite_next, hk, s.skipIf_with_inputs n]; rfl
  case LD_Vx_K x =>
    have hk : State.lowestKey { s with inputs := n } = s.lowestKey := by
      simp only [State.lowestKey, State.keyDown, hkeys rfl]
    simp only [exec, execLdVxK, hk, mapNext_next]
    cases s.lowestKey <;> rfl
  case DRW | LD_B | LD_mem_Vx => simp only [exec, execDrw, execLdB, execLdMemVx, mapNext_ite_next]; rfl
  case LD_Vx_mem x =>
    simp only [exec, execLdVxMem, mapNext_ite_next, ← s.setRegs_with_inputs]; rfl
  all_goals rfl

/-- Settles O13: changing inputs an instruction does not read commutes with it, and no instruction writes them. -/
theorem inputsReadOnlyWhereNamed : Obligations.InputsReadOnlyWhereNamed := by
  unfold Obligations.InputsReadOnlyWhereNamed
  intro i s n hkeys hrnd
  refine ⟨exec_with_inputs s n hkeys hrnd, fun t ht => ?_⟩
  obtain ⟨-, -, hin⟩ := exec_cfg_loaded_inputs ht
  exact hin

end Sys2Proof.Machine
end

section
/-! The invariants of reachable states (10_state.md R25): what each update keeps, then one instruction, one STEP, one
transaction, one schedule. -/

namespace Sys2Proof.Machine

/-! ### What each update keeps -/

/-- The invariants speak of memory, pc and the stack alone, under the parameters. -/
theorem State.Inv.of_eq {s t : State} (hs : s.Inv) (hcfg : t.cfg = s.cfg) (hmem : t.mem = s.mem) (hpc : t.pc = s.pc)
    (hstk : t.stk = s.stk) : t.Inv where
  mem_canonical := by rw [hcfg, hmem]; exact hs.mem_canonical
  pc_bound := by rw [hpc]; exact hs.pc_bound
  stk_bound := by rw [hstk]; exact hs.stk_bound

theorem State.Inv.setPc {s : State} (hs : s.Inv) {w : Word} (hw : w.toNat ≤ 4350) : (s.setPc w).Inv :=
  ⟨hs.mem_canonical, hw, hs.stk_bound⟩

/-- A skip from an advanced pc. -/
theorem State.Inv.skipIf {s : State} (hs : s.Inv) (hpc : s.pc.toNat ≤ 4096) (c : Bool) : (s.skipIf c).Inv := by
  rw [State.skipIf_eq]
  refine hs.setPc ?_
  split <;> bv_omega

/-- Back to the instruction's own address, from an advanced pc. -/
theorem State.Inv.rewind {s : State} (hs : s.Inv) (hpc : 2 ≤ s.pc.toNat) : s.rewind.Inv := by
  have := hs.pc_bound
  exact hs.setPc (by bv_omega)

theorem State.Inv.raiseFault {s : State} (hs : s.Inv) (hpc : 2 ≤ s.pc.toNat) (cause : Fault) (info : Word) :
    (s.raiseFault cause info).Inv :=
  (hs.rewind hpc).of_eq rfl rfl rfl rfl

theorem State.Inv.storeBytes {s : State} (hs : s.Inv) {a : Nat} {bs : List Byte} (h : a + bs.length ≤ 4096) :
    (s.storeBytes a bs).Inv :=
  ⟨Mem.wf_writeList s.cfg bs hs.mem_canonical h, hs.pc_bound, hs.stk_bound⟩

theorem State.Inv.setRegs {s : State} (hs : s.Inv) (k : Nat) (bs : List Byte) : (s.setRegs k bs).Inv := by
  rw [State.setRegs_eq_v]
  exact hs.of_eq rfl rfl rfl rfl

/-- A new entry of the stack and any SP. -/
theorem State.Inv.setEntry {s : State} (hs : s.Inv) {k : Nat} (hk : k < 16) {w : Word} (hw : w.toNat ≤ 4096)
    (sp : Fin 17) : State.Inv { s with stk := s.stk.set k w hk, sp := sp } where
  mem_canonical := hs.mem_canonical
  pc_bound := hs.pc_bound
  stk_bound j := by
    have hj := hs.stk_bound j
    by_cases hkj : k = j.val
    · simpa [hkj] using hw
    · simpa [hkj] using hj

theorem addrOperand_toNat (nnn : BitVec 12) : (addrOperand nnn).toNat = nnn.toNat := by
  simp [addrOperand]; omega

theorem State.regWord_toNat (s : State) (x : Reg) : (s.regWord x).toNat = (s.reg x).toNat := by
  simp [State.regWord]; omega

/-- RESET gives the invariants, from any state. -/
theorem State.applyReset_inv (s : State) : s.applyReset.Inv where
  mem_canonical := rfl
  pc_bound := by show (0x200 : Word).toNat ≤ 4350; decide
  stk_bound k := by simp [State.applyReset, State.reset]

/-- A LOAD stores at most the 3584 bytes from 0x200 to 4095. -/
theorem State.Inv.applyLoad {s : State} (hs : s.Inv) (source : Option (List Byte)) : (s.applyLoad source).1.Inv := by
  obtain ⟨bytes, -, hlen, h⟩ | ⟨-, h⟩ := s.applyLoad_cases source
  · rw [maxRomLength] at hlen
    rw [h]
    exact (hs.storeBytes (a := 0x200) (bs := bytes) (by omega)).of_eq rfl rfl rfl rfl
  · rwa [h]

/-! ### One instruction, one STEP, one transaction -/

/-- An instruction keeps the invariants. Its pc is advanced from one a fetch is possible from, so it lies in 2..4096;
the highest pc it can leave is that of BNNN, 4095 + 255 (10_state.md R25). -/
theorem exec_keeps_inv {i : Instr} {s t : State} (h : exec i s = .next t) (hs : s.Inv) (hlo : 2 ≤ s.pc.toNat)
    (hhi : s.pc.toNat ≤ 4096) : t.Inv := by
  cases i
  case RET =>
    by_cases hsp : s.sp.val = 0
    · cases (execRet_of_empty hsp).symm.trans h
      exact hs.raiseFault hlo _ _
    · cases (execRet_of_pos (Nat.pos_of_ne_zero hsp)).symm.trans h
      have htop : s.stk[s.sp.val - 1].toNat ≤ 4096 := hs.stk_bound ⟨s.sp.val - 1, by omega⟩
      have hpop : State.Inv { s with sp := ⟨s.sp.val - 1, by omega⟩ } := hs.of_eq rfl rfl rfl rfl
      exact hpop.setPc (htop.trans (by decide))
  case CALL nnn =>
    by_cases hsp : s.sp.val = 16
    · cases (execCall_of_full nnn hsp).symm.trans h
      exact hs.raiseFault hlo _ _
    · cases (execCall_of_lt nnn (by omega)).symm.trans h
      exact (hs.setEntry _ hhi _).setPc (by rw [addrOperand_toNat]; omega)
  case JP nnn =>
    cases h
    exact hs.setPc (by rw [addrOperand_toNat]; omega)
  case JP_V0 nnn =>
    cases h
    exact hs.setPc (by rw [BitVec.toNat_add, addrOperand_toNat, State.regWord_toNat]; omega)
  case SE_imm | SNE_imm | SE_reg | SNE_reg => cases h; exact hs.skipIf hhi _
  case SKP | SKNP =>
    simp only [exec, execSkp, execSknp] at h
    split at h
    · cases h; exact hs.raiseFault hlo _ _
    · cases h; exact hs.skipIf hhi _
  case LD_Vx_K x =>
    cases h
    cases s.lowestKey with
    | some k => exact hs.of_eq rfl rfl rfl rfl
    | none => exact hs.rewind hlo
  case LD_B | LD_mem_Vx =>
    simp only [exec, execLdB, execLdMemVx] at h
    split at h
    next hm =>
      have := (inMemory_iff _ _).mp hm
      cases h; exact hs.storeBytes (by simp; omega)
    next => cases h; exact hs.raiseFault hlo _ _
  case DRW x y n =>
    simp only [exec, execDrw] at h
    split at h
    · cases h; exact hs.of_eq rfl rfl rfl rfl
    · cases h; exact hs.raiseFault hlo _ _
  case LD_Vx_mem x =>
    simp only [exec, execLdVxMem] at h
    split at h
    · cases h; exact hs.setRegs 0 _
    · cases h; exact hs.raiseFault hlo _ _
  all_goals cases h; exact hs.of_eq rfl rfl rfl rfl

/-- An advance from a pc that a fetch is possible from. -/
theorem State.Inv.advance {s : State} (hs : s.Inv) (hpc : s.pc.toNat ≤ 4094) :
    s.advance.Inv ∧ s.advance.pc.toNat = s.pc.toNat + 2 := by
  have h : (s.pc + 2).toNat = s.pc.toNat + 2 := by bv_omega
  exact ⟨hs.setPc (by omega), h⟩

/-- Settles O39. An ignored STEP and a fetch fault change none of the items; else the instruction keeps them. -/
theorem stepKeepsInvariant : Obligations.StepKeepsInvariant := by
  unfold Obligations.StepKeepsInvariant
  intro s t hs h
  obtain ⟨-, rfl⟩ | ⟨-, -, rfl⟩ | ⟨-, op, u, hf, hu, rfl⟩ := step_cases h
  · exact hs
  · exact hs.of_eq rfl rfl rfl rfl
  · have hpc : s.pc.toNat ≤ 4094 := by
      by_contra hgt
      rw [State.fetch_of_gt (by omega)] at hf
      cases hf
    obtain ⟨hadv, hpc'⟩ := hs.advance hpc
    exact (exec_keeps_inv hu hadv (by omega) (by omega)).of_eq rfl rfl rfl rfl

theorem transact_keeps_inv (tr : Transaction) (s t : State) (h : transact tr s = .next t) (hs : s.Inv) : t.Inv := by
  cases tr with
  | reset => cases h; exact s.applyReset_inv
  | load source => cases h; exact hs.applyLoad source
  | step keys rnd => exact stepKeepsInvariant _ t (hs.of_eq rfl rfl rfl rfl : (s.withInputs keys rnd).Inv) h
  | tick => cases h; exact hs.of_eq rfl rfl rfl rfl

/-! ### Every schedule is served -/

theorem step_eq_next (s : State) : ∃ t, step s = .next t := by
  unfold step
  split
  · exact ⟨s, rfl⟩
  · cases s.fetch with
    | none => exact ⟨_, rfl⟩
    | some op =>
      obtain ⟨t, ht⟩ := exec_eq_next (decodeWord s.cfg op) s.advance
      exact ⟨t.nextInputs, by simp only [ht, mapNext_next]⟩

theorem transact_eq_next (tr : Transaction) (s : State) : ∃ t, transact tr s = .next t := by
  cases tr with
  | step keys rnd => exact step_eq_next _
  | reset | load | tick => exact ⟨_, rfl⟩

theorem runSchedule_eq_next (ts : List Transaction) (s : State) : ∃ t, runSchedule ts s = .next t := by
  induction ts generalizing s with
  | nil => exact ⟨s, rfl⟩
  | cons tr ts ih =>
    obtain ⟨u, hu⟩ := transact_eq_next tr s
    rw [runSchedule_cons hu]
    exact ih u

/-- Settles O41: the schedule is served, RESET gives the invariants and every transaction after it keeps them. -/
theorem reachableStatesMeetInvariant : Obligations.ReachableStatesMeetInvariant := by
  unfold Obligations.ReachableStatesMeetInvariant
  intro ts s
  obtain ⟨t, ht⟩ := runSchedule_eq_next ts s.applyReset
  exact ⟨t, ht, runSchedule_invariant transact_keeps_inv ht s.applyReset_inv⟩

/-- Settles O40: the state after reset is what RESET gives in it. -/
theorem resetMeetsInvariant : Obligations.ResetMeetsInvariant := State.reset.applyReset_inv

end Sys2Proof.Machine
end

section
/-! RESET, the flag LOADED and the outputs (10_state.md R20, R23, R27). -/

namespace Sys2Proof.Machine

/-! ### RESET -/

/-- After RESET no cell is listed, so every byte is the initial one (20_memory.md R34). -/
theorem State.applyReset_byteAt (s : State) (a : Nat) : s.applyReset.byteAt a = Mem.initial s.cfg a := rfl

/-- Settles O42, item by item, the bytes from the initial contents of an empty cell list. -/
theorem resetGivesResetValues : Obligations.ResetGivesResetValues := by
  unfold Obligations.ResetGivesResetValues
  intro s
  have hreg (r : Reg) : s.applyReset.reg r = 0 := by simp [State.reg, State.applyReset, State.reset]
  have hstk (k : Fin 16) : s.applyReset.stk[k] = 0 := by simp [State.applyReset, State.reset]
  have hglyph (a : Nat) (h : a < 80) : s.applyReset.byteAt a = s.cfg.glyphs[a] := dif_pos h
  have hzero (a : Nat) (h : 80 ≤ a) (_ : a < 4096) : s.applyReset.byteAt a = 0 := dif_neg (by omega)
  have hcell (x y : Nat) : s.applyReset.cell x y = false := by simp [State.cell, State.applyReset, State.reset]
  exact ⟨s.applyReset, rfl, hreg, rfl, rfl, hstk, rfl, rfl, rfl, hglyph, hzero, hcell, rfl, rfl, rfl, rfl, rfl⟩

/-! ### LOADED -/

theorem step_loaded {s t : State} (h : step s = .next t) : t.loaded = s.loaded := by
  obtain ⟨-, rfl⟩ | ⟨-, -, rfl⟩ | ⟨-, op, u, -, hu, rfl⟩ := step_cases h
  · rfl
  · rfl
  · obtain ⟨-, hloaded, -⟩ := exec_cfg_loaded_inputs hu
    exact hloaded

/-- Settles O48: RESET clears LOADED, a LOAD sets it or fails, and STEP and TICK leave it. -/
theorem loadedChangesOnlyByLoadAndReset : Obligations.LoadedChangesOnlyByLoadAndReset := by
  unfold Obligations.LoadedChangesOnlyByLoadAndReset
  intro tr s t h hne
  cases tr with
  | reset => cases h; exact .inl ⟨rfl, rfl⟩
  | load source =>
    cases h
    obtain ⟨bytes, rfl, hlen, hload⟩ | ⟨-, hload⟩ := s.applyLoad_cases source
    · exact .inr ⟨bytes, rfl, hlen, by rw [hload]⟩
    · exact absurd (by rw [hload]) hne
  | step keys rnd => exact absurd (step_loaded h) hne
  | tick => cases h; exact absurd rfl hne

/-! ### The outputs -/

theorem State.soundOn_iff (s : State) : s.soundOn = true ↔ 0 < s.st.toNat := by
  simp [State.soundOn, BitVec.lt_def]

/-- Settles O52: inside the grid a cell is its bit of the framebuffer, and the other outputs read one field each. -/
theorem outputsFollowState : Obligations.OutputsFollowState := by
  unfold Obligations.OutputsFollowState
  intro s
  refine ⟨fun x y hx hy => ?_, s.soundOn_iff, rfl, fun h => ?_, fun r h => ?_⟩
  · simp [State.cell, State.fbOut, hx, hy]
  · simp [State.faultOut, h]
  · simp [State.faultOut, h]

end Sys2Proof.Machine
end

section
/-! Faults and memory: what an instruction that faults leaves, and what a block store leaves for a later read or fetch
(20_memory.md R40 to R43). -/

namespace Sys2Proof.Machine

/-- Settles O11: the instruction raises the fault its condition names, which moves only pc and the latch. -/
theorem instructionFaultsChangeOnlyTheLatch : Obligations.InstructionFaultsChangeOnlyTheLatch := by
  unfold Obligations.InstructionFaultsChangeOnlyTheLatch
  intro i s r h
  rw [exec_of_faultOf_eq_some h]
  rfl

/-! ### A block store and the fetch after it -/

/-- A byte depends on the cells and the parameters alone. -/
theorem State.byteAt_congr {s t : State} (hmem : t.mem = s.mem) (hcfg : t.cfg = s.cfg) (a : Nat) :
    t.byteAt a = s.byteAt a := by
  rw [State.byteAt, State.byteAt, hmem, hcfg]

/-- The bytes of a stored register block are those of its registers. -/
theorem State.storeBytes_regBlock_byteAt (s : State) (a : Nat) {x k : Reg} (hk : k ≤ x) :
    (s.storeBytes a (s.regBlock x)).byteAt (a + k.val) = s.reg k := by
  rw [Fin.le_def] at hk
  have hstored : a ≤ a + k.val ∧ a + k.val < a + (s.regBlock x).length := by rw [State.regBlock_length]; omega
  rw [State.storeBytes_byteAt, dif_pos hstored, State.regBlock_getElem, Nat.add_sub_cancel_left, Fin.ofNat_val_eq_self]

/-- FX55 in range stores the block of registers from the address in I on (49_family_F_misc.md R132). -/
theorem execLdMemVx_of_le {x : Reg} {s : State} (h : s.i.toNat + x.val ≤ 4095) :
    execLdMemVx x s = .next (s.storeBytes s.i.toNat (s.regBlock x)) :=
  if_pos ((inMemory_iff _ _).mpr (.inr (by rw [State.dataBase]; omega)))

/-- Settles O35: the fetch reads the two bytes the store left at I + k and I + k + 1. -/
theorem storeIsSeenByNextFetch : Obligations.StoreIsSeenByNextFetch := by
  unfold Obligations.StoreIsSeenByNextFetch
  intro x k k' s t u hrange ht hkk' hk'x hmem hcfg hpc
  obtain rfl : s.storeBytes s.i.toNat (s.regBlock x) = t :=
    Host.Outcome.next.inj ((execLdMemVx_of_le hrange).symm.trans ht)
  have hk'val : k'.val ≤ x.val := hk'x
  have hkx : k ≤ x := Fin.le_def.mpr (by omega)
  have hhi : u.byteAt u.pc.toNat = s.reg k := by
    rw [State.byteAt_congr hmem hcfg, hpc, State.storeBytes_regBlock_byteAt s _ hkx]
  have hlo : u.byteAt (u.pc.toNat + 1) = s.reg k' := by
    rw [State.byteAt_congr hmem hcfg, hpc, Nat.add_assoc, ← hkk', State.storeBytes_regBlock_byteAt s _ hk'x]
  refine ⟨_, State.fetch_of_le (by omega), ?_⟩
  rw [wordOfBytes_toNat, hhi, hlo]

end Sys2Proof.Machine
end

section
/-! Words, their fields and the decoder (30_encoding.md R50 to R55): the fields of a masked and of an encoded word, what
each family decodes to, and which words are no-ops. -/

namespace Sys2Proof

open Machine

/-! ### Fields of a word (R52) -/

theorem fieldNN_toNat (op : Word) : (fieldNN op).toNat = op.toNat % 256 := BitVec.extractLsb'_toNat ..

theorem fieldN_toNat (op : Word) : (fieldN op).toNat = op.toNat % 16 := BitVec.extractLsb'_toNat ..

theorem fieldNN_eq_iff {op : Word} {nn : Byte} : fieldNN op = nn ↔ op.toNat % 256 = nn.toNat := by
  rw [← BitVec.toNat_inj, fieldNN_toNat]

theorem fieldN_eq_iff {op : Word} {n : BitVec 4} : fieldN op = n ↔ op.toNat % 16 = n.toNat := by
  rw [← BitVec.toNat_inj, fieldN_toNat]

/-- The low nibble is that of the low byte. -/
theorem fieldN_of_fieldNN {op : Word} {nn : Byte} (h : fieldNN op = nn) : fieldN op = nn.extractLsb' 0 4 := by
  rw [fieldNN_eq_iff] at h
  rw [fieldN_eq_iff, BitVec.extractLsb'_toNat, Nat.shiftRight_zero]
  omega

@[simp] theorem opX_eq_fieldX (op : Word) : opX op = fieldX op := by
  simp [opX, fieldX, Nat.shiftRight_eq_div_pow]

@[simp] theorem opY_eq_fieldY (op : Word) : opY op = fieldY op := by
  simp [opY, fieldY, Nat.shiftRight_eq_div_pow]

@[simp] theorem opN_eq_fieldN (op : Word) : opN op = fieldN op := rfl

@[simp] theorem opNN_eq_fieldNN (op : Word) : opNN op = fieldNN op := rfl

@[simp] theorem opNNN_eq_fieldNNN (op : Word) : opNNN op = fieldNNN op := rfl

/-- A mask that keeps a whole field leaves the field as it was. -/
theorem extractLsb'_of_masked {op mask bits : Word} {start len : Nat} (h : op &&& mask = bits)
    (hm : mask.extractLsb' start len = BitVec.allOnes len) : op.extractLsb' start len = bits.extractLsb' start len := by
  rw [← h, BitVec.extractLsb'_and, hm, BitVec.and_allOnes]

theorem fieldFamily_of_masked {op mask bits : Word} (h : op &&& mask = bits)
    (hm : fieldFamily mask = BitVec.allOnes 4) : fieldFamily op = fieldFamily bits := extractLsb'_of_masked h hm

theorem fieldN_of_masked {op mask bits : Word} (h : op &&& mask = bits) (hm : fieldN mask = BitVec.allOnes 4) :
    fieldN op = fieldN bits := extractLsb'_of_masked h hm

theorem fieldNN_of_masked {op mask bits : Word} (h : op &&& mask = bits) (hm : fieldNN mask = BitVec.allOnes 8) :
    fieldNN op = fieldNN bits := extractLsb'_of_masked h hm

/-! ### Fields of an encoded word (R51) -/

section
variable (f n : BitVec 4) (x y : Reg) (nn : Byte) (nnn : BitVec 12)

@[simp] theorem fieldFamily_encodeA : fieldFamily (encodeA f nnn) = f := BitVec.extractLsb'_append_eq_left

@[simp] theorem fieldNNN_encodeA : fieldNNN (encodeA f nnn) = nnn := BitVec.extractLsb'_append_eq_right

@[simp] theorem fieldFamily_encodeXI : fieldFamily (encodeXI f x nn) = f :=
  (BitVec.extractLsb'_append_eq_of_le (by decide)).trans BitVec.extractLsb'_append_eq_left

@[simp] theorem fieldX_encodeXI : fieldX (encodeXI f x nn) = x :=
  congrArg BitVec.toFin ((BitVec.extractLsb'_append_eq_of_le (by decide)).trans BitVec.extractLsb'_append_eq_right)

@[simp] theorem fieldNN_encodeXI : fieldNN (encodeXI f x nn) = nn := BitVec.extractLsb'_append_eq_right

/-- A word of formats XY and XYN is one of formats XI and XK whose low byte is Y and N. -/
theorem encodeXY_eq_encodeXI : encodeXY f x y n = encodeXI f x (BitVec.ofFin (w := 4) y ++ n) :=
  BitVec.append_assoc

@[simp] theorem fieldFamily_encodeXY : fieldFamily (encodeXY f x y n) = f := by
  rw [encodeXY_eq_encodeXI, fieldFamily_encodeXI]

@[simp] theorem fieldX_encodeXY : fieldX (encodeXY f x y n) = x := by
  rw [encodeXY_eq_encodeXI, fieldX_encodeXI]

@[simp] theorem fieldY_encodeXY : fieldY (encodeXY f x y n) = y :=
  congrArg BitVec.toFin ((BitVec.extractLsb'_append_eq_of_le (by decide)).trans BitVec.extractLsb'_append_eq_right)

@[simp] theorem fieldN_encodeXY : fieldN (encodeXY f x y n) = n := BitVec.extractLsb'_append_eq_right

end

/-! ### What each family decodes to (R54, R59) -/

section
variable {c : Config} {op : Word}

theorem decodeWord_of_family0 (h : fieldFamily op = 0x0) : decodeWord c op =
    if c.sub0.selects op 0xE0 then .CLS else if c.sub0.selects op 0xEE then .RET else .NOP op := by
  rw [decodeWord, h]; rfl

theorem decodeWord_of_family1 (h : fieldFamily op = 0x1) : decodeWord c op = .JP (fieldNNN op) := by
  rw [decodeWord, h]; rfl

theorem decodeWord_of_family2 (h : fieldFamily op = 0x2) : decodeWord c op = .CALL (fieldNNN op) := by
  rw [decodeWord, h]; rfl

theorem decodeWord_of_family3 (h : fieldFamily op = 0x3) : decodeWord c op = .SE_imm (fieldX op) (fieldNN op) := by
  rw [decodeWord, h]; rfl

theorem decodeWord_of_family4 (h : fieldFamily op = 0x4) : decodeWord c op = .SNE_imm (fieldX op) (fieldNN op) := by
  rw [decodeWord, h]; rfl

theorem decodeWord_of_family5 (h : fieldFamily op = 0x5) : decodeWord c op = .SE_reg (fieldX op) (fieldY op) := by
  rw [decodeWord, h]; rfl

theorem decodeWord_of_family6 (h : fieldFamily op = 0x6) : decodeWord c op = .LD_imm (fieldX op) (fieldNN op) := by
  rw [decodeWord, h]; rfl

theorem decodeWord_of_family7 (h : fieldFamily op = 0x7) : decodeWord c op = .ADD_imm (fieldX op) (fieldNN op) := by
  rw [decodeWord, h]; rfl

theorem decodeWord_of_family8 (h : fieldFamily op = 0x8) : decodeWord c op = decodeFamily8 op := by
  rw [decodeWord, h]; rfl

theorem decodeWord_of_family9 (h : fieldFamily op = 0x9) : decodeWord c op = .SNE_reg (fieldX op) (fieldY op) := by
  rw [decodeWord, h]; rfl

theorem decodeWord_of_familyA (h : fieldFamily op = 0xA) : decodeWord c op = .LD_I (fieldNNN op) := by
  rw [decodeWord, h]; rfl

theorem decodeWord_of_familyB (h : fieldFamily op = 0xB) : decodeWord c op = .JP_V0 (fieldNNN op) := by
  rw [decodeWord, h]; rfl

theorem decodeWord_of_familyC (h : fieldFamily op = 0xC) : decodeWord c op = .RND (fieldX op) (fieldNN op) := by
  rw [decodeWord, h]; rfl

theorem decodeWord_of_familyD (h : fieldFamily op = 0xD) :
    decodeWord c op = .DRW (fieldX op) (fieldY op) (fieldN op) := by
  rw [decodeWord, h]; rfl

theorem decodeWord_of_familyE (h : fieldFamily op = 0xE) : decodeWord c op =
    if c.subE.selects op 0x9E then .SKP (fieldX op)
    else if c.subE.selects op 0xA1 then .SKNP (fieldX op) else .NOP op := by
  rw [decodeWord, h]; rfl

theorem decodeWord_of_familyF (h : fieldFamily op = 0xF) : decodeWord c op = decodeFamilyF op := by
  rw [decodeWord, h]; rfl

/-! ### The key of families 0 and E (R54) -/

/-- When the low nibble decides the low byte, both selectors look for the low byte. -/
theorem Selector.selects_eq_of_fieldN {nn : Byte} (sel : Selector)
    (h : fieldN op = nn.extractLsb' 0 4 → fieldNN op = nn) : sel.selects op nn = (fieldNN op == nn) := by
  cases sel with
  | lowByte => rfl
  | lowNibble =>
    rw [Bool.eq_iff_iff, Selector.selects, beq_iff_eq, beq_iff_eq]
    exact ⟨h, fieldN_of_fieldNN⟩

/-- A low byte selects itself, and no key that has another low nibble. -/
theorem Selector.selects_of_fieldNN {k : Byte} (sel : Selector) (nn : Byte) (h : fieldNN op = k)
    (hk : k.extractLsb' 0 4 = nn.extractLsb' 0 4 → k = nn) : sel.selects op nn = (k == nn) := by
  subst h
  exact sel.selects_eq_of_fieldN fun hn => hk (fieldN_of_fieldNN rfl ▸ hn)

/-! ### Which words are no-ops (R55) -/

/-- Family 8 has a no-op exactly for the low nibbles that are no key. -/
theorem decodeFamily8_eq_NOP_iff {w : Word} :
    decodeFamily8 op = .NOP w ↔ w = op ∧ family8Keys.contains (fieldN op) = false := by
  unfold decodeFamily8
  split <;> simp_all [family8Keys, eq_comm]

/-- Family F has a no-op exactly for the low bytes that are no key. -/
theorem decodeFamilyF_eq_NOP_iff {w : Word} :
    decodeFamilyF op = .NOP w ↔ w = op ∧ familyFKeys.contains (fieldNN op) = false := by
  unfold decodeFamilyF
  split <;> simp_all [familyFKeys, eq_comm]

/-- The twelve families without a key have no no-op; the decoder's last arm is that of family F. -/
theorem decodeWord_ne_NOP_of_keyless {w : Word} (h0 : fieldFamily op ≠ 0x0) (h8 : fieldFamily op ≠ 0x8)
    (hE : fieldFamily op ≠ 0xE) (hF : fieldFamily op ≠ 0xF) : decodeWord c op ≠ .NOP w := by
  unfold decodeWord
  split
  case h_16 =>
    simp only [imp_false] at *
    bv_omega
  all_goals simp_all

theorem decodeWord_eq_NOP_iff {w : Word} :
    decodeWord c op = .NOP w ↔ w = op ∧ selectsNothing c op = true := by
  unfold selectsNothing
  split_ifs with h0 h8 hE hF
  · rw [decodeWord_of_family0 h0]
    split_ifs <;> simp_all [@eq_comm _ op w]
  · rw [decodeWord_of_family8 h8, decodeFamily8_eq_NOP_iff, Bool.not_eq_true']
  · rw [decodeWord_of_familyE hE]
    split_ifs <;> simp_all [@eq_comm _ op w]
  · rw [decodeWord_of_familyF hF, decodeFamilyF_eq_NOP_iff, Bool.not_eq_true']
  · simp [decodeWord_ne_NOP_of_keyless h0 h8 hE hF]

end

end Sys2Proof
end

section
/-! The rows of the opcode map (30_encoding.md R56 to R58), each with its operands read off by arithmetic, and the round
trip from an instruction through its word. -/

namespace Sys2Proof.Machine

/-! ### Rows by what their mask keeps (R54) -/

section
variable {bits : Word} {instr : Word → Instr}

theorem decodesTo_of_fieldFamily
    (hd : ∀ c op, fieldFamily op = fieldFamily bits → decodeWord c op = instr op) : DecodesTo 0xF000 bits instr :=
  fun c op h => hd c op (fieldFamily_of_masked h (by decide))

theorem decodesTo_of_fieldNN
    (hd : ∀ c op, fieldFamily op = fieldFamily bits → fieldNN op = fieldNN bits → decodeWord c op = instr op) :
    DecodesTo 0xF0FF bits instr :=
  fun c op h => hd c op (fieldFamily_of_masked h (by decide)) (fieldNN_of_masked h (by decide))

theorem decodesTo_of_decodeFamily8 (hb : fieldFamily bits = 0x8)
    (hd : ∀ op, fieldN op = fieldN bits → decodeFamily8 op = instr op) : DecodesTo 0xF00F bits instr := by
  intro c op h
  rw [decodeWord_of_family8 ((fieldFamily_of_masked h (by decide)).trans hb)]
  exact hd op (fieldN_of_masked h (by decide))

theorem decodesTo_of_decodeFamilyF (hb : fieldFamily bits = 0xF)
    (hd : ∀ op, fieldNN op = fieldNN bits → decodeFamilyF op = instr op) : DecodesTo 0xF0FF bits instr :=
  decodesTo_of_fieldNN fun _ op hf hnn => (decodeWord_of_familyF (hf.trans hb)).trans (hd op hnn)

end

/-! ### The rows (R56) -/

theorem decodesTo_CLS : DecodesTo 0xF0FF 0x00E0 (fun _ => .CLS) :=
  decodesTo_of_fieldNN fun c op hf (hnn : _ = 0xE0) => by
    simp [decodeWord_of_family0 hf, Selector.selects_of_fieldNN _ _ hnn]

theorem decodesTo_RET : DecodesTo 0xF0FF 0x00EE (fun _ => .RET) :=
  decodesTo_of_fieldNN fun c op hf (hnn : _ = 0xEE) => by
    simp [decodeWord_of_family0 hf, Selector.selects_of_fieldNN _ _ hnn]

theorem decodesTo_JP : DecodesTo 0xF000 0x1000 (fun op => .JP (opNNN op)) :=
  decodesTo_of_fieldFamily fun _ _ h => by simp [decodeWord_of_family1 h]

theorem decodesTo_CALL : DecodesTo 0xF000 0x2000 (fun op => .CALL (opNNN op)) :=
  decodesTo_of_fieldFamily fun _ _ h => by simp [decodeWord_of_family2 h]

theorem decodesTo_SE_imm : DecodesTo 0xF000 0x3000 (fun op => .SE_imm (opX op) (opNN op)) :=
  decodesTo_of_fieldFamily fun _ _ h => by simp [decodeWord_of_family3 h]

theorem decodesTo_SNE_imm : DecodesTo 0xF000 0x4000 (fun op => .SNE_imm (opX op) (opNN op)) :=
  decodesTo_of_fieldFamily fun _ _ h => by simp [decodeWord_of_family4 h]

theorem decodesTo_SE_reg : DecodesTo 0xF000 0x5000 (fun op => .SE_reg (opX op) (opY op)) :=
  decodesTo_of_fieldFamily fun _ _ h => by simp [decodeWord_of_family5 h]

theorem decodesTo_LD_imm : DecodesTo 0xF000 0x6000 (fun op => .LD_imm (opX op) (opNN op)) :=
  decodesTo_of_fieldFamily fun _ _ h => by simp [decodeWord_of_family6 h]

theorem decodesTo_ADD_imm : DecodesTo 0xF000 0x7000 (fun op => .ADD_imm (opX op) (opNN op)) :=
  decodesTo_of_fieldFamily fun _ _ h => by simp [decodeWord_of_family7 h]

theorem decodesTo_LD_reg : DecodesTo 0xF00F 0x8000 (fun op => .LD_reg (opX op) (opY op)) :=
  decodesTo_of_decodeFamily8 rfl fun _ (h : _ = 0x0) => by simp [decodeFamily8, h]

theorem decodesTo_OR : DecodesTo 0xF00F 0x8001 (fun op => .OR (opX op) (opY op)) :=
  decodesTo_of_decodeFamily8 rfl fun _ (h : _ = 0x1) => by simp [decodeFamily8, h]

theorem decodesTo_AND : DecodesTo 0xF00F 0x8002 (fun op => .AND (opX op) (opY op)) :=
  decodesTo_of_decodeFamily8 rfl fun _ (h : _ = 0x2) => by simp [decodeFamily8, h]

theorem decodesTo_XOR : DecodesTo 0xF00F 0x8003 (fun op => .XOR (opX op) (opY op)) :=
  decodesTo_of_decodeFamily8 rfl fun _ (h : _ = 0x3) => by simp [decodeFamily8, h]

theorem decodesTo_ADD_reg : DecodesTo 0xF00F 0x8004 (fun op => .ADD_reg (opX op) (opY op)) :=
  decodesTo_of_decodeFamily8 rfl fun _ (h : _ = 0x4) => by simp [decodeFamily8, h]

theorem decodesTo_SUB : DecodesTo 0xF00F 0x8005 (fun op => .SUB (opX op) (opY op)) :=
  decodesTo_of_decodeFamily8 rfl fun _ (h : _ = 0x5) => by simp [decodeFamily8, h]

theorem decodesTo_SHR : DecodesTo 0xF00F 0x8006 (fun op => .SHR (opX op)) :=
  decodesTo_of_decodeFamily8 rfl fun _ (h : _ = 0x6) => by simp [decodeFamily8, h]

theorem decodesTo_SUBN : DecodesTo 0xF00F 0x8007 (fun op => .SUBN (opX op) (opY op)) :=
  decodesTo_of_decodeFamily8 rfl fun _ (h : _ = 0x7) => by simp [decodeFamily8, h]

theorem decodesTo_SHL : DecodesTo 0xF00F 0x800E (fun op => .SHL (opX op)) :=
  decodesTo_of_decodeFamily8 rfl fun _ (h : _ = 0xE) => by simp [decodeFamily8, h]

theorem decodesTo_SNE_reg : DecodesTo 0xF000 0x9000 (fun op => .SNE_reg (opX op) (opY op)) :=
  decodesTo_of_fieldFamily fun _ _ h => by simp [decodeWord_of_family9 h]

theorem decodesTo_LD_I : DecodesTo 0xF000 0xA000 (fun op => .LD_I (opNNN op)) :=
  decodesTo_of_fieldFamily fun _ _ h => by simp [decodeWord_of_familyA h]

theorem decodesTo_JP_V0 : DecodesTo 0xF000 0xB000 (fun op => .JP_V0 (opNNN op)) :=
  decodesTo_of_fieldFamily fun _ _ h => by simp [decodeWord_of_familyB h]

theorem decodesTo_RND : DecodesTo 0xF000 0xC000 (fun op => .RND (opX op) (opNN op)) :=
  decodesTo_of_fieldFamily fun _ _ h => by simp [decodeWord_of_familyC h]

theorem decodesTo_DRW : DecodesTo 0xF000 0xD000 (fun op => .DRW (opX op) (opY op) (opN op)) :=
  decodesTo_of_fieldFamily fun _ _ h => by simp [decodeWord_of_familyD h]

theorem decodesTo_SKP : DecodesTo 0xF0FF 0xE09E (fun op => .SKP (opX op)) :=
  decodesTo_of_fieldNN fun c op hf (hnn : _ = 0x9E) => by
    simp [decodeWord_of_familyE hf, Selector.selects_of_fieldNN _ _ hnn]

theorem decodesTo_SKNP : DecodesTo 0xF0FF 0xE0A1 (fun op => .SKNP (opX op)) :=
  decodesTo_of_fieldNN fun c op hf (hnn : _ = 0xA1) => by
    simp [decodeWord_of_familyE hf, Selector.selects_of_fieldNN _ _ hnn]

theorem decodesTo_LD_Vx_DT : DecodesTo 0xF0FF 0xF007 (fun op => .LD_Vx_DT (opX op)) :=
  decodesTo_of_decodeFamilyF rfl fun _ (h : _ = 0x07) => by simp [decodeFamilyF, h]

theorem decodesTo_LD_Vx_K : DecodesTo 0xF0FF 0xF00A (fun op => .LD_Vx_K (opX op)) :=
  decodesTo_of_decodeFamilyF rfl fun _ (h : _ = 0x0A) => by simp [decodeFamilyF, h]

theorem decodesTo_LD_DT_Vx : DecodesTo 0xF0FF 0xF015 (fun op => .LD_DT_Vx (opX op)) :=
  decodesTo_of_decodeFamilyF rfl fun _ (h : _ = 0x15) => by simp [decodeFamilyF, h]

theorem decodesTo_LD_ST_Vx : DecodesTo 0xF0FF 0xF018 (fun op => .LD_ST_Vx (opX op)) :=
  decodesTo_of_decodeFamilyF rfl fun _ (h : _ = 0x18) => by simp [decodeFamilyF, h]

theorem decodesTo_ADD_I : DecodesTo 0xF0FF 0xF01E (fun op => .ADD_I (opX op)) :=
  decodesTo_of_decodeFamilyF rfl fun _ (h : _ = 0x1E) => by simp [decodeFamilyF, h]

theorem decodesTo_LD_F : DecodesTo 0xF0FF 0xF029 (fun op => .LD_F (opX op)) :=
  decodesTo_of_decodeFamilyF rfl fun _ (h : _ = 0x29) => by simp [decodeFamilyF, h]

theorem decodesTo_LD_B : DecodesTo 0xF0FF 0xF033 (fun op => .LD_B (opX op)) :=
  decodesTo_of_decodeFamilyF rfl fun _ (h : _ = 0x33) => by simp [decodeFamilyF, h]

theorem decodesTo_LD_mem_Vx : DecodesTo 0xF0FF 0xF055 (fun op => .LD_mem_Vx (opX op)) :=
  decodesTo_of_decodeFamilyF rfl fun _ (h : _ = 0x55) => by simp [decodeFamilyF, h]

theorem decodesTo_LD_Vx_mem : DecodesTo 0xF0FF 0xF065 (fun op => .LD_Vx_mem (opX op)) :=
  decodesTo_of_decodeFamilyF rfl fun _ (h : _ = 0x65) => by simp [decodeFamilyF, h]

/-- Settles O2, row by row. -/
theorem decodeFollowsOpcodeMap : Obligations.DecodeFollowsOpcodeMap :=
  ⟨decodesTo_CLS, decodesTo_RET, decodesTo_JP, decodesTo_CALL, decodesTo_SE_imm, decodesTo_SNE_imm, decodesTo_SE_reg,
    decodesTo_LD_imm, decodesTo_ADD_imm, decodesTo_LD_reg, decodesTo_OR, decodesTo_AND, decodesTo_XOR,
    decodesTo_ADD_reg, decodesTo_SUB, decodesTo_SHR, decodesTo_SUBN, decodesTo_SHL, decodesTo_SNE_reg, decodesTo_LD_I,
    decodesTo_JP_V0, decodesTo_RND, decodesTo_DRW, decodesTo_SKP, decodesTo_SKNP, decodesTo_LD_Vx_DT,
    decodesTo_LD_Vx_K, decodesTo_LD_DT_Vx, decodesTo_LD_ST_Vx, decodesTo_ADD_I, decodesTo_LD_F, decodesTo_LD_B,
    decodesTo_LD_mem_Vx, decodesTo_LD_Vx_mem⟩

/-! ### From an instruction to its word and back (R51, R59) -/

/-- By the formats of R51: the family, and the key where there is one, is read back, and so is every operand. -/
theorem decodeWord_encode {c : Config} {i : Instr} (h : i.wellFormed c = true) : decodeWord c (encode i) = i := by
  cases i with
  | CLS => exact decodesTo_CLS c _ (by decide)
  | RET => exact decodesTo_RET c _ (by decide)
  | SKP x => simpa [encode] using decodesTo_SKP c _ (Laws.OpcodeRow.SKP x)
  | SKNP x => simpa [encode] using decodesTo_SKNP c _ (Laws.OpcodeRow.SKNP x)
  | NOP op => exact decodeWord_eq_NOP_iff.mpr ⟨rfl, h⟩
  | JP | CALL | LD_I | JP_V0 =>
    simp [encode, decodeWord_of_family1, decodeWord_of_family2, decodeWord_of_familyA, decodeWord_of_familyB]
  | SE_imm | SNE_imm | LD_imm | ADD_imm | RND =>
    simp [encode, decodeWord_of_family3, decodeWord_of_family4, decodeWord_of_family6, decodeWord_of_family7,
      decodeWord_of_familyC]
  | SE_reg | SNE_reg | DRW =>
    simp [encode, decodeWord_of_family5, decodeWord_of_family9, decodeWord_of_familyD]
  | LD_reg | OR | AND | XOR | ADD_reg | SUB | SHR | SUBN | SHL =>
    simp [encode, decodeWord_of_family8, decodeFamily8]
  | LD_Vx_DT | LD_Vx_K | LD_DT_Vx | LD_ST_Vx | ADD_I | LD_F | LD_B | LD_mem_Vx | LD_Vx_mem =>
    simp [encode, decodeWord_of_familyF, decodeFamilyF]

/-- Settles O1: the two bytes make up the encoded word again (20_memory.md R35), and that word decodes to `i`. -/
theorem decodeInvertsEncode : Obligations.DecodeInvertsEncode := by
  unfold Obligations.DecodeInvertsEncode
  intro c i rest h
  calc decode c (encodeBytes i ++ rest)
    _ = .ok (decodeWord c (encode i), rest) := by simp [encodeBytes, bytesOfWord, decode]
    _ = .ok (i, rest) := by rw [decodeWord_encode h]

/-- Settles O3: only a NOP can be ill-formed, and a decoded NOP carries a word that selects nothing. -/
theorem decodeGivesWellFormed : Obligations.DecodeGivesWellFormed := by
  unfold Obligations.DecodeGivesWellFormed
  intro c op
  cases h : decodeWord c op with
  | NOP w =>
    obtain ⟨rfl, hw⟩ := decodeWord_eq_NOP_iff.mp h
    exact hw
  | _ => rfl

end Sys2Proof.Machine
end

section
/-! The classes of words (30_encoding.md R58) compare two readings of a word: the one in which families 0 and E look at
the low nibble, and the one in which they look at the low byte. -/

namespace Sys2Proof

/-- The parameters with one selector for both families that have one. -/
def Config.uniform (sel : Selector) : Config := { Config.default with sub0 := sel, subE := sel }

@[simp] theorem Config.uniform_sub0 (sel : Selector) : (Config.uniform sel).sub0 = sel := rfl
@[simp] theorem Config.uniform_subE (sel : Selector) : (Config.uniform sel).subE = sel := rfl

/-- A word lies in one family, so one selector at most is asked. -/
theorem selectsNothing_eq_uniform (c : Config) (op : Word) :
    ∃ sel, selectsNothing c op = selectsNothing (Config.uniform sel) op := by
  by_cases h0 : fieldFamily op = 0x0
  · exact ⟨c.sub0, by simp [selectsNothing, h0]⟩
  · exact ⟨c.subE, by rw [selectsNothing, selectsNothing, if_neg h0, if_neg h0]; rfl⟩

section
variable {op : Word}

/-! ### The classes of one family -/

theorem classify_of_family0 (h : fieldFamily op = 0x0) : classify op =
    if op = 0x00E0 ∨ op = 0x00EE then .canonical
    else if fieldNN op = 0xE0 ∨ fieldNN op = 0xEE then .aliasWord
    else if fieldN op = 0x0 ∨ fieldN op = 0xE then .readingDependent else .certainNoOp := by
  rw [classify, h]; rfl

theorem classify_of_familyE (h : fieldFamily op = 0xE) : classify op =
    if fieldNN op = 0x9E ∨ fieldNN op = 0xA1 then .canonical
    else if fieldN op = 0x1 ∨ fieldN op = 0xE then .readingDependent else .certainNoOp := by
  rw [classify, h]; rfl

theorem classify_of_keyless (h0 : fieldFamily op ≠ 0x0) (h8 : fieldFamily op ≠ 0x8) (hE : fieldFamily op ≠ 0xE)
    (hF : fieldFamily op ≠ 0xF) : classify op = .canonical ∨ classify op = .aliasWord := by
  by_cases hN : fieldN op = 0x0
  all_goals
    unfold classify
    split <;> simp_all

/-- In family 0 the low nibble alone tells the certain no-ops, and the low byte the no-ops of some reading. -/
theorem classify_family0_iff (h : fieldFamily op = 0x0) :
    (classify op = .certainNoOp ↔ fieldN op ≠ 0x0 ∧ fieldN op ≠ 0xE) ∧
    (classify op = .certainNoOp ∨ classify op = .readingDependent ↔ fieldNN op ≠ 0xE0 ∧ fieldNN op ≠ 0xEE) := by
  have hE0 : fieldNN op = 0xE0 → fieldN op = 0x0 := fieldN_of_fieldNN
  have hEE : fieldNN op = 0xEE → fieldN op = 0xE := fieldN_of_fieldNN
  have hCLS : op = 0x00E0 → fieldNN op = 0xE0 := by rintro rfl; rfl
  have hRET : op = 0x00EE → fieldNN op = 0xEE := by rintro rfl; rfl
  rw [classify_of_family0 h]
  grind

/-- In family E likewise. -/
theorem classify_familyE_iff (h : fieldFamily op = 0xE) :
    (classify op = .certainNoOp ↔ fieldN op ≠ 0xE ∧ fieldN op ≠ 0x1) ∧
    (classify op = .certainNoOp ∨ classify op = .readingDependent ↔ fieldNN op ≠ 0x9E ∧ fieldNN op ≠ 0xA1) := by
  have h9E : fieldNN op = 0x9E → fieldN op = 0xE := fieldN_of_fieldNN
  have hA1 : fieldNN op = 0xA1 → fieldN op = 0x1 := fieldN_of_fieldNN
  rw [classify_of_familyE h]
  grind

/-! ### The classes and the two readings -/

/-- Under LowNibble the certain no-op words, and no others, select nothing. -/
theorem selectsNothing_lowNibble_iff :
    selectsNothing (Config.uniform .lowNibble) op = true ↔ classify op = .certainNoOp := by
  unfold selectsNothing
  split_ifs with h0 h8 hE hF
  · simp [Selector.selects, classify_family0_iff h0]
  · simp [classify, h8]
  · simp [Selector.selects, classify_familyE_iff hE]
  · simp [classify, hF]
  · obtain h | h := classify_of_keyless h0 h8 hE hF <;> simp [h]

/-- Under LowByte the reading-dependent words select nothing as well. -/
theorem selectsNothing_lowByte_iff :
    selectsNothing (Config.uniform .lowByte) op = true ↔
      classify op = .certainNoOp ∨ classify op = .readingDependent := by
  unfold selectsNothing
  split_ifs with h0 h8 hE hF
  · rw [(classify_family0_iff h0).2]
    simp [Selector.selects]
  · by_cases hk : fieldN op ∈ family8Keys <;> simp [classify, h8, hk]
  · rw [(classify_familyE_iff hE).2]
    simp [Selector.selects]
  · by_cases hk : fieldNN op ∈ familyFKeys <;> simp [classify, hF, hk]
  · obtain h | h := classify_of_keyless h0 h8 hE hF <;> simp [h]

theorem selectsNothing_of_certainNoOp (c : Config) (h : classify op = .certainNoOp) : selectsNothing c op = true := by
  obtain ⟨sel, hsel⟩ := selectsNothing_eq_uniform c op
  rw [hsel]
  cases sel with
  | lowByte => exact selectsNothing_lowByte_iff.mpr (.inl h)
  | lowNibble => exact selectsNothing_lowNibble_iff.mpr h

theorem decodeWord_of_certainNoOp (c : Config) (h : classify op = .certainNoOp) : decodeWord c op = .NOP op :=
  decodeWord_eq_NOP_iff.mpr ⟨rfl, selectsNothing_of_certainNoOp c h⟩

/-- A word that is no no-op under either reading is none under any parameters. -/
theorem decodeWord_ne_NOP_of_classify (c : Config) (hc : classify op ≠ .certainNoOp)
    (hr : classify op ≠ .readingDependent) (w : Word) : decodeWord c op ≠ .NOP w := by
  intro h
  obtain ⟨sel, hsel⟩ := selectsNothing_eq_uniform c op
  obtain ⟨-, hn⟩ := decodeWord_eq_NOP_iff.mp h
  rw [hsel] at hn
  cases sel with
  | lowByte => exact (selectsNothing_lowByte_iff.mp hn).elim hc hr
  | lowNibble => exact hc (selectsNothing_lowNibble_iff.mp hn)

/-- A word whose low byte is a key where one is asked for decodes alike under all parameters. -/
theorem decodeWord_eq_of_lowByte (h : selectsNothing (Config.uniform .lowByte) op = false) (c c' : Config) :
    decodeWord c op = decodeWord c' op := by
  by_cases h0 : fieldFamily op = 0x0
  · have hkey : fieldNN op = 0xE0 ∨ fieldNN op = 0xEE := by
      simpa [selectsNothing, h0, Selector.selects, or_iff_not_imp_left] using h
    obtain hnn | hnn := hkey <;> simp [decodeWord_of_family0 h0, Selector.selects_of_fieldNN _ _ hnn]
  by_cases hE : fieldFamily op = 0xE
  · have hkey : fieldNN op = 0x9E ∨ fieldNN op = 0xA1 := by
      simpa [selectsNothing, hE, Selector.selects, or_iff_not_imp_left] using h
    obtain hnn | hnn := hkey <;> simp [decodeWord_of_familyE hE, Selector.selects_of_fieldNN _ _ hnn]
  unfold decodeWord
  split <;> simp_all

/-- The encoder gives canonical words only, but for a NOP, which has no canonical spelling (R61). -/
theorem classify_encode {i : Instr} (h : ∀ w, i ≠ .NOP w) : classify (encode i) = .canonical := by
  cases i with
  | NOP w => exact absurd rfl (h w)
  | CLS | RET => decide
  | LD_reg | OR | AND | XOR | ADD_reg | SUB | SHR | SUBN | SHL => simp [encode, classify, family8Keys]
  | LD_Vx_DT | LD_Vx_K | LD_DT_Vx | LD_ST_Vx | ADD_I | LD_F | LD_B | LD_mem_Vx | LD_Vx_mem =>
    simp [encode, classify, familyFKeys]
  | _ => simp [encode, classify]

end

/-- Settles O4: the two readings tell the classes apart, and an instruction's own word is canonical. -/
theorem onlyReadingDependentWordsVary : Obligations.OnlyReadingDependentWordsVary := by
  unfold Obligations.OnlyReadingDependentWordsVary
  intro op
  have hne : classify op = .canonical ∨ classify op = .aliasWord → ∀ c w, decodeWord c op ≠ .NOP w := by
    rintro (h | h) c
    all_goals exact decodeWord_ne_NOP_of_classify c (by simp [h]) (by simp [h])
  refine ⟨fun h c c' => ?_, fun h c => decodeWord_of_certainNoOp c h, fun h c => hne h c op,
    fun h c => classify_encode (hne (.inr h) c), fun h => ⟨⟨.uniform .lowByte, ?_⟩, ⟨.uniform .lowNibble, ?_⟩⟩⟩
  · by_cases hc : classify op = .certainNoOp
    · rw [decodeWord_of_certainNoOp c hc, decodeWord_of_certainNoOp c' hc]
    · have hbyte : selectsNothing (.uniform .lowByte) op ≠ true :=
        selectsNothing_lowByte_iff.not.mpr (not_or.mpr ⟨hc, h⟩)
      exact decodeWord_eq_of_lowByte (Bool.eq_false_of_not_eq_true hbyte) c c'
  · exact decodeWord_eq_NOP_iff.mpr ⟨rfl, selectsNothing_lowByte_iff.mpr (.inr h)⟩
  · intro hnop
    obtain ⟨-, hn⟩ := decodeWord_eq_NOP_iff.mp hnop
    simp [selectsNothing_lowNibble_iff.mp hn] at h

end Sys2Proof
end

section
/-! The selectors of families 0 and E (30_encoding.md R54) and sample words. -/

namespace Sys2Proof.Machine

/-- Settles O5: the key is the low nibble or the low byte, read off by arithmetic. -/
theorem selectorsChooseTheKey : Obligations.SelectorsChooseTheKey := by
  unfold Obligations.SelectorsChooseTheKey
  intro c op
  refine ⟨fun h => ?_, fun h => ?_⟩
  · have hf : fieldFamily op = 0x0 := fieldFamily_of_masked h (by decide)
    constructor
    all_goals
      intro hsel
      simp [decodeWord_of_family0 hf, hsel, Selector.selects, fieldN_eq_iff, fieldNN_eq_iff]
  · have hf : fieldFamily op = 0xE := fieldFamily_of_masked h (by decide)
    constructor
    all_goals
      intro hsel
      simp [decodeWord_of_familyE hf, hsel, Selector.selects, fieldN_eq_iff, fieldNN_eq_iff]

/-- Settles O6: each word lies in its row of the opcode map, or is a certain no-op. -/
theorem sampleWordsDecode : Obligations.SampleWordsDecode := by
  unfold Obligations.SampleWordsDecode
  intro c
  exact ⟨decodesTo_CLS c _ (by decide), decodesTo_RET c _ (by decide), decodeWord_of_certainNoOp c (by decide),
    decodesTo_JP c _ (by decide), decodesTo_CALL c _ (by decide), decodesTo_SE_imm c _ (by decide),
    decodesTo_SNE_imm c _ (by decide), decodesTo_SE_reg c _ (by decide), decodesTo_LD_imm c _ (by decide),
    decodesTo_ADD_imm c _ (by decide), decodesTo_SUB c _ (by decide), decodesTo_SHR c _ (by decide),
    decodeWord_of_certainNoOp c (by decide), decodesTo_SNE_reg c _ (by decide), decodesTo_LD_I c _ (by decide),
    decodesTo_JP_V0 c _ (by decide), decodesTo_RND c _ (by decide), decodesTo_DRW c _ (by decide),
    decodesTo_SKP c _ (by decide), decodesTo_SKNP c _ (by decide), decodesTo_LD_B c _ (by decide),
    decodesTo_LD_Vx_mem c _ (by decide), decodeWord_of_certainNoOp c (by decide)⟩

/-! ### No-op words (R55) -/

/-- A NOP answers the state it is given. -/
theorem exec_NOP (op : Word) (s : State) : exec (.NOP op) s = .next s := rfl

/-- Settles O38: the fetched word decodes to a NOP, so the STEP is the advance, with fresh inputs after it. -/
theorem unselectedWordsAreNoOps : Obligations.UnselectedWordsAreNoOps := by
  unfold Obligations.UnselectedWordsAreNoOps
  refine ⟨exec_NOP, fun s op hl hf hpc hop hn => ⟨s.advance.nextInputs, ?_, rfl⟩⟩
  have hword : wordOfBytes (s.byteAt s.pc.toNat) (s.byteAt (s.pc.toNat + 1)) = op :=
    BitVec.eq_of_toNat_eq ((wordOfBytes_toNat _ _).trans hop.symm)
  have hfetch : s.fetch = some op := (State.fetch_of_le hpc).trans (congrArg some hword)
  rw [step_of_fetch (State.gated_eq_false.mpr ⟨hl, hf⟩) hfetch, decodeWord_eq_NOP_iff.mpr ⟨rfl, hn⟩, exec_NOP,
    mapNext_next]

end Sys2Proof.Machine
end

section
/-! The STEP cycle (40_step_cycle.md R70 to R74): its stages as equations, the precision of a faulting STEP, and the
latch that a set FAULT keeps until RESET. -/

namespace Sys2Proof.Machine

/-! ### The stages of a STEP -/

theorem step_of_gated {s : State} (hg : s.gated = true) : step s = .next s := if_pos hg

/-- A served STEP whose fetch is out of range latches FETCH_OOB (R71). -/
theorem step_of_fetch_none {s : State} (hg : s.gated = false) (hf : s.fetch = none) :
    step s = .next (s.latchFault .fetchOob s.pc).nextInputs := by
  unfold step
  rw [hg, hf]
  rfl

/-- A served STEP whose two bytes are in memory runs the word they make. -/
theorem step_of_pc_le {s : State} (hg : s.gated = false) (hpc : s.pc.toNat ≤ 4094) :
    step s = mapNext State.nextInputs
      (exec (decodeWord s.cfg (wordOfBytes (s.byteAt s.pc.toNat) (s.byteAt (s.pc.toNat + 1)))) s.advance) :=
  step_of_fetch hg (State.fetch_of_le hpc)

/-- The advance in the words of R72: pc goes to (pc + 2) mod 65536. -/
theorem State.advance_eq_ofNat (s : State) :
    s.advance = { s with pc := BitVec.ofNat 16 ((s.pc.toNat + 2) % 65536) } := by
  have hpc : s.pc + 2 = BitVec.ofNat 16 ((s.pc.toNat + 2) % 65536) := by bv_omega
  rw [State.advance, hpc, State.setPc]

/-- Settles O7: each stage is its equation, with the word read off its two bytes and the advance by arithmetic. -/
theorem stepFollowsItsStages : Obligations.StepFollowsItsStages := by
  unfold Obligations.StepFollowsItsStages
  refine fun s => ⟨fun h => step_of_gated (State.gated_eq_true.mpr h), fun hl hf => ?_⟩
  have hg : s.gated = false := State.gated_eq_false.mpr ⟨hl, hf⟩
  refine ⟨fun hpc => step_of_fetch_none hg (State.fetch_of_gt hpc), fun hpc op hop => ?_⟩
  have hword : wordOfBytes (s.byteAt s.pc.toNat) (s.byteAt (s.pc.toNat + 1)) = op :=
    BitVec.eq_of_toNat_eq ((wordOfBytes_toNat _ _).trans hop.symm)
  rw [step_of_pc_le hg hpc, hword, State.advance_eq_ofNat]

/-- Two bytes decode to their word's instruction, with nothing left over (30_encoding.md R50). -/
theorem decode_pair_eq_ok {c : Config} {hi lo : Byte} {i : Instr} (h : decode c [hi, lo] = .ok (i, [])) :
    decodeWord c (wordOfBytes hi lo) = i := by
  simpa [decode] using h

/-- Settles O8: the instruction the two bytes decode to is that of the word they make. -/
theorem stepRunsDecodedInstruction : Obligations.StepRunsDecodedInstruction := by
  unfold Obligations.StepRunsDecodedInstruction
  intro s i hl hf hpc hdec
  rw [step_of_pc_le (State.gated_eq_false.mpr ⟨hl, hf⟩) hpc, decode_pair_eq_ok hdec]

/-! ### A faulting STEP (R74) -/

/-- Fault entry after the advance puts pc back where the STEP found it, so only the latch changes (R74). -/
theorem State.advance_raiseFault (s : State) (cause : Fault) (info : Word) :
    s.advance.raiseFault cause info = s.latchFault cause info := by
  have hpc : s.pc + 2 - 2 = s.pc := BitVec.add_sub_cancel _ _
  rw [State.raiseFault, State.rewind, State.advance_pc, hpc]
  rfl

/-- An instruction raises the fault its condition names, or leaves the latch as it was. -/
theorem exec_fault_cases {i : Instr} {s t : State} (h : exec i s = .next t) :
    t.fault = s.fault ∨ ∃ r, faultOf i s = some r ∧ t = s.raiseFault r.cause r.info := by
  cases hf : faultOf i s with
  | none =>
    obtain ⟨u, hu, hfault, -⟩ := writeMatrixHolds i s hf
    obtain rfl : t = u := Host.Outcome.next.inj (h.symm.trans hu)
    exact .inl hfault
  | some r => exact .inr ⟨r, rfl, Host.Outcome.next.inj (h.symm.trans (exec_of_faultOf_eq_some hf))⟩

/-- Settles O10: a fetch fault only sets the latch, an instruction's fault is entered after the advance, and no other
STEP sets the latch. -/
theorem faultingStepIsPrecise : Obligations.FaultingStepIsPrecise := by
  unfold Obligations.FaultingStepIsPrecise
  intro s t hnone h hset
  obtain ⟨-, rfl⟩ | ⟨-, -, rfl⟩ | ⟨-, op, u, -, hu, rfl⟩ := step_cases h
  · exact absurd hnone hset
  · rfl
  · obtain hkept | ⟨r, -, rfl⟩ := exec_fault_cases hu
    · exact absurd (hkept.trans hnone) hset
    · rw [State.advance_raiseFault]
      rfl

/-! ### A set latch (60_exceptions.md R147) -/

@[simp] theorem State.applyLoad_fault (s : State) (source : Option (List Byte)) :
    (s.applyLoad source).1.fault = s.fault := by
  obtain ⟨bytes, -, -, h⟩ | ⟨-, h⟩ := s.applyLoad_cases source
  · simp [h]
  · rw [h]

/-- Settles O47: LOAD and TICK do not write the latch, and a set latch gates the STEP. -/
theorem onlyResetClearsFault : Obligations.OnlyResetClearsFault := by
  unfold Obligations.OnlyResetClearsFault
  intro tr s r hr hne
  cases tr with
  | reset => exact absurd rfl hne
  | load source => exact ⟨_, rfl, (s.applyLoad_fault source).trans hr, fun _ _ h => nomatch h⟩
  | step keys rnd =>
    have hg : (s.withInputs keys rnd).gated = true := State.gated_eq_true.mpr (.inr (by simp [hr]))
    refine ⟨_, step_of_gated hg, hr, ?_⟩
    rintro _ _ ⟨⟩
    rfl
  | tick => exact ⟨_, rfl, hr, fun _ _ h => nomatch h⟩

end Sys2Proof.Machine
end

section
/-! Family 0 and the call it returns from (41_family_0_clear_return.md R80, R81; 42_family_1_2_jump_call.md R86): the
cleared framebuffer, the pop of a pushed entry, and the return to the instruction after the call. -/

namespace Sys2Proof.Machine

/-! ### A pop after a push (R81, R86) -/

/-- On a stack as a push left it, the pop answers the pushed word and the pointer from before the push, whatever else
has changed since. -/
theorem State.pop_of_push {s t u : State} {w : Word} (h : s.push w = some t) (hstk : u.stk = t.stk)
    (hsp : u.sp = t.sp) : u.pop = some (w, { u with sp := s.sp }) := by
  obtain ⟨-, hfull⟩ | ⟨hlt, hpush⟩ := s.push_cases w
  · cases hfull.symm.trans h
  · obtain rfl := Option.some.inj (hpush.symm.trans h)
    have hsp' : u.sp.val = s.sp.val + 1 := congrArg Fin.val hsp
    rw [State.pop_of_pos (by omega)]
    simp [hstk, hsp']

/-- A return pops its target into pc. -/
theorem execRet_of_pop {s t : State} {w : Word} (h : s.pop = some (w, t)) : execRet s = .next (t.setPc w) := by
  simp [execRet, h]

/-- Settles O18: the call pushed the advanced pc, so the return's pop answers it, with the pointer from before the
call. -/
theorem returnGoesBackAfterCall : Obligations.ReturnGoesBackAfterCall := by
  unfold Obligations.ReturnGoesBackAfterCall
  intro nnn s t u hlt hcall hstk hsp
  obtain rfl := Host.Outcome.next.inj ((execCall_of_lt nnn hlt).symm.trans hcall)
  have hpop : u.pop = some (s.pc, { u with sp := s.sp }) := State.pop_of_push (s.push_of_lt s.pc hlt) hstk hsp
  exact ⟨_, execRet_of_pop hpop, rfl, rfl⟩

/-! ### Clear (R80) -/

/-- Every cell of a zero framebuffer is off, and a coordinate outside the grid names no cell (log entry 20). -/
@[simp] theorem State.setFb_zero_cell (s : State) (x y : Nat) : (s.setFb 0).cell x y = false := by
  simp [State.cell]

/-- Settles O14: clearing replaces the framebuffer by zero. -/
theorem clearScreenResult : Obligations.ClearScreenResult := by
  unfold Obligations.ClearScreenResult
  exact ⟨decodesTo_CLS, fun s => ⟨s.setFb 0, rfl, s.setFb_zero_cell, rfl, respected_setFb s 0⟩⟩

/-! ### Return (R81) -/

/-- Settles O15: the pop of a stack that is not empty, with the frame of a write to pc and the stack; on an empty stack
the entry of the fault. -/
theorem returnResult : Obligations.ReturnResult := by
  unfold Obligations.ReturnResult
  refine ⟨decodesTo_RET, fun s => ⟨fun hpos => ?_, fun hempty => ?_⟩⟩
  · exact ⟨_, execRet_of_pos hpos, rfl, rfl, rfl, rfl, respected_setStack_setPc s s.stk _ _⟩
  · exact instructionFaultsChangeOnlyTheLatch .RET s _ (if_pos hempty)

end Sys2Proof.Machine
end

section
/-! The jumps and the call (42_family_1_2_jump_call.md R85, R86; 46_family_9_A_B_C.md R112): the exact jump targets, and
the entry a push writes. -/

namespace Sys2Proof.Machine

/-! ### Jumps (R85, R112) -/

/-- The target of BNNN is the exact sum: at most 4095 + 255, so 16 bits hold it (R112). -/
theorem addrOperand_add_regWord_toNat (nnn : BitVec 12) (s : State) (x : Reg) :
    (addrOperand nnn + s.regWord x).toNat = nnn.toNat + (s.reg x).toNat := by
  have hsum : nnn.toNat + (s.reg x).toNat < 2 ^ 16 := by omega
  rw [BitVec.toNat_add, addrOperand_toNat, State.regWord_toNat, Nat.mod_eq_of_lt hsum]

/-- Settles O16: each jump is one write of pc, with that write's frame; the targets are the exact numbers. -/
theorem jumpResults : Obligations.JumpResults := by
  unfold Obligations.JumpResults
  refine ⟨decodesTo_JP, decodesTo_JP_V0, fun nnn s => ⟨?_, ?_⟩⟩
  · exact ⟨_, rfl, addrOperand_toNat nnn, rfl, respected_setPc s _⟩
  · exact ⟨_, rfl, addrOperand_add_regWord_toNat nnn s 0, rfl, respected_setPc s _⟩

/-! ### Call (R86) -/

/-- Settles O17: below 16 entries the push writes STK[SP] alone, with the frame of a write to pc and the stack; on a
full stack the entry of the fault. -/
theorem callResult : Obligations.CallResult := by
  unfold Obligations.CallResult
  refine ⟨decodesTo_CALL, fun nnn s => ⟨fun hlt => ?_, fun hfull => ?_⟩⟩
  · have hentries (k : Fin 16) :
        (s.stk.set s.sp.val s.pc hlt)[k] = if k.val = s.sp.val then s.pc else s.stk[k] := by
      simp [Vector.getElem_set, eq_comm]
    exact ⟨_, execCall_of_lt nnn hlt, hentries, rfl, addrOperand_toNat nnn, rfl, respected_setStack_setPc s _ _ _⟩
  · exact instructionFaultsChangeOnlyTheLatch (.CALL nnn) s _ (if_pos hfull)

end Sys2Proof.Machine
end

section
/-! The compare-and-skip instructions (43_family_3_4_5_skip.md R90 to R92, 46_family_9_A_B_C.md R110): what a skip does
to the state. -/

namespace Sys2Proof.Machine

/-! ### A conditional skip (40_step_cycle.md R76) -/

@[simp] theorem State.skipIf_pc (s : State) (c : Bool) : (s.skipIf c).pc = if c then s.pc + 2 else s.pc := by
  rw [State.skipIf_eq, State.setPc_pc]

@[simp] theorem State.skipIf_fault (s : State) (c : Bool) : (s.skipIf c).fault = s.fault := by simp [State.skipIf_eq]

/-- An instruction that ends in a skip on a test of `P` raises pc by 2 exactly when `P` holds, and writes only pc. -/
theorem skipIf_result {i : Instr} {s : State} {c : Bool} {P : Prop} [Decidable P]
    (hexec : exec i s = .next (s.skipIf c)) (htest : c = true ↔ P) :
    ∃ t, exec i s = .next t ∧ t.pc = (if P then s.pc + 2 else s.pc) ∧ t.fault = s.fault ∧
      WriteSet.Respected { pc := true } s t :=
  ⟨s.skipIf c, hexec, by simp only [State.skipIf_pc, htest], s.skipIf_fault c, respected_skipIf s c⟩

/-- Settles O19: each of the four ends in a skip, whose test is the comparison of its two operands. -/
theorem compareSkipResults : Obligations.CompareSkipResults := by
  unfold Obligations.CompareSkipResults
  refine ⟨decodesTo_SE_imm, decodesTo_SNE_imm, decodesTo_SE_reg, decodesTo_SNE_reg,
    fun x y nn s => ⟨?_, ?_, ?_, ?_⟩⟩
  · exact skipIf_result rfl beq_iff_eq
  · exact skipIf_result rfl bne_iff_ne
  · exact skipIf_result rfl beq_iff_eq
  · exact skipIf_result rfl bne_iff_ne

end Sys2Proof.Machine
end

section
/-! The immediate constants (44_family_6_7_immediate.md R95, R96): each is one write of VX, with that write's frame. -/

namespace Sys2Proof.Machine

/-- Settles O21: VX reads back the constant written to it. -/
theorem loadConstantResult : Obligations.LoadConstantResult := by
  unfold Obligations.LoadConstantResult
  exact ⟨decodesTo_LD_imm, fun x nn s => ⟨s.setReg x nn, rfl, s.setReg_reg_self x nn, rfl, respected_setReg s x nn⟩⟩

/-- Settles O22: VX reads back the sum written to it, and addition of bytes wraps at 256. -/
theorem addConstantResult : Obligations.AddConstantResult := by
  unfold Obligations.AddConstantResult
  refine ⟨decodesTo_ADD_imm, fun x nn s => ⟨s.setReg x (s.reg x + nn), rfl, ?_, rfl, respected_setReg s x _⟩⟩
  rw [State.setReg_reg_self, BitVec.toNat_add]

end Sys2Proof.Machine
end

section
/-! The ALU (45_family_8_alu.md): the flags as numbers, the registers after a flag write, and the one shape of the
instructions that write VF first and then read their operands again. -/

namespace Sys2Proof.Machine

/-! ### Copy and logic (R100 to R103) -/

@[simp] theorem State.combine_reg_self (s : State) (g : Byte → Byte → Byte) (x y : Reg) :
    (s.combine g x y).reg x = g (s.reg x) (s.reg y) :=
  s.setReg_reg_self x _

/-- Settles O23: each is one write of VX, computed from both registers, with that write's frame. -/
theorem copyAndLogicResults : Obligations.CopyAndLogicResults := by
  unfold Obligations.CopyAndLogicResults
  refine ⟨decodesTo_LD_reg, decodesTo_OR, decodesTo_AND, decodesTo_XOR, fun x y s => ⟨?_, ?_, ?_, ?_⟩⟩
  · exact ⟨_, rfl, s.combine_reg_self _ x y, rfl, respected_setReg s x _⟩
  · exact ⟨_, rfl, fun k _ => by rw [State.combine_reg_self, BitVec.getLsbD_or], rfl, respected_setReg s x _⟩
  · exact ⟨_, rfl, fun k _ => by rw [State.combine_reg_self, BitVec.getLsbD_and], rfl, respected_setReg s x _⟩
  · exact ⟨_, rfl, fun k _ => by rw [State.combine_reg_self, BitVec.getLsbD_xor], rfl, respected_setReg s x _⟩

/-! ### The flags as numbers (10_state.md R11) -/

@[simp] theorem flagByte_toNat (f : Bool) : (flagByte f).toNat = f.toNat := by
  cases f <;> rfl

theorem carryFlag_toNat (a b : Byte) : (carryFlag a b).toNat = if a.toNat + b.toNat > 255 then 1 else 0 :=
  Bool.cond_decide _ 1 0

theorem greaterFlag_toNat (a b : Byte) : (greaterFlag a b).toNat = if a.toNat > b.toNat then 1 else 0 :=
  Bool.cond_decide _ 1 0

theorem lowBitFlag_toNat (a : Byte) : (lowBitFlag a).toNat = a.toNat % 2 := by
  rw [lowBitFlag, BitVec.getLsbD, Nat.toNat_testBit, pow_zero, Nat.div_one]

/-- Bit 7 is the top bit of a byte, so dividing by 128 leaves it alone. -/
theorem highBitFlag_toNat (a : Byte) : (highBitFlag a).toNat = a.toNat / 128 := by
  have htop : a.toNat / 128 < 2 := by omega
  rw [highBitFlag, BitVec.getLsbD, Nat.toNat_testBit]
  exact Nat.mod_eq_of_lt htop

/-! ### Registers after a flag write -/

theorem State.setFlag_reg_toNat (s : State) (f : Bool) (r : Reg) :
    ((s.setFlag f).reg r).toNat = if r = VF then f.toNat else (s.reg r).toNat := by
  rw [State.setFlag_reg, apply_ite BitVec.toNat, flagByte_toNat]

/-- The flag stays in VF when the result goes to another register. -/
theorem State.setFlag_setReg_VF_toNat (s : State) (f : Bool) {x : Reg} (b : Byte) (h : x ≠ VF) :
    (((s.setFlag f).setReg x b).reg VF).toNat = f.toNat := by
  rw [State.setReg_reg_of_ne _ _ h.symm, State.setFlag_reg_toNat, if_pos rfl]

/-- Settles O24: the sum is taken before the flag write, and the write of VX comes after it. -/
theorem addWithCarryResult : Obligations.AddWithCarryResult := by
  unfold Obligations.AddWithCarryResult
  refine ⟨decodesTo_ADD_reg, fun x y s => ⟨_, rfl, ?_, fun hx => ?_, rfl, respected_setFlag_setReg s _ x _⟩⟩
  · rw [State.setReg_reg_self, BitVec.toNat_add]
  · rw [State.setFlag_setReg_VF_toNat _ _ _ hx, carryFlag_toNat]

/-! ### Flag first, operands read again (R105 to R108) -/

/-- An instruction that writes VF as a flag and then combines the registers as they are after that: its result, its
flag and its frame. -/
theorem setFlag_combine_result {i : Instr} {s : State} {f : Bool} {g : Byte → Byte → Byte} {x y : Reg}
    (hexec : exec i s = .next ((s.setFlag f).combine g x y)) :
    ∃ t, exec i s = .next t ∧ t.reg x = g ((s.setFlag f).reg x) ((s.setFlag f).reg y) ∧
      (x ≠ VF → (t.reg VF).toNat = f.toNat) ∧ t.fault = s.fault ∧ WriteSet.Respected { regs := [x, VF] } s t :=
  ⟨_, hexec, State.combine_reg_self _ g x y, s.setFlag_setReg_VF_toNat f _, rfl, respected_setFlag_setReg s f x _⟩

/-- The difference mod 256 of two registers read after a flag write. -/
theorem State.setFlag_sub_toNat (s : State) (f : Bool) (a b : Reg) :
    ((s.setFlag f).reg a - (s.setFlag f).reg b).toNat =
      ((if a = VF then f.toNat else (s.reg a).toNat) + 256 - (if b = VF then f.toNat else (s.reg b).toNat)) % 256 := by
  rw [← State.setFlag_reg_toNat, ← State.setFlag_reg_toNat]
  bv_omega

/-- Settles O25: the flag of each is strict comparison of the old registers, and its result the difference of the new
ones. -/
theorem subtractResults : Obligations.SubtractResults := by
  unfold Obligations.SubtractResults
  refine ⟨decodesTo_SUB, decodesTo_SUBN, fun x y s => ⟨?_, ?_⟩⟩
  · obtain ⟨t, ht, hres, hflag, hframe⟩ := setFlag_combine_result (i := .SUB x y) (s := s) rfl
    exact ⟨t, ht, ⟨_, greaterFlag_toNat _ _, hres ▸ s.setFlag_sub_toNat _ x y, hflag⟩, hframe⟩
  · obtain ⟨t, ht, hres, hflag, hframe⟩ := setFlag_combine_result (i := .SUBN x y) (s := s) rfl
    exact ⟨t, ht, ⟨_, greaterFlag_toNat _ _, hres ▸ s.setFlag_sub_toNat _ y x, hflag⟩, hframe⟩

/-- Settles O26: the flag of each is the bit shifted out of the old VX, and its result VX read again and shifted. -/
theorem shiftResults : Obligations.ShiftResults := by
  unfold Obligations.ShiftResults
  refine ⟨decodesTo_SHR, decodesTo_SHL, fun x s => ⟨?_, ?_⟩⟩
  · obtain ⟨t, ht, hres, hflag, hframe⟩ := setFlag_combine_result (i := .SHR x) (s := s) rfl
    rw [lowBitFlag_toNat] at hflag
    refine ⟨t, ht, ?_, hflag, hframe⟩
    rw [hres, BitVec.toNat_ushiftRight, State.setFlag_reg_toNat, lowBitFlag_toNat, Nat.shiftRight_one]
  · obtain ⟨t, ht, hres, hflag, hframe⟩ := setFlag_combine_result (i := .SHL x) (s := s) rfl
    rw [highBitFlag_toNat] at hflag
    refine ⟨t, ht, ?_, hflag, hframe⟩
    rw [hres, BitVec.toNat_shiftLeft, State.setFlag_reg_toNat, highBitFlag_toNat, Nat.shiftLeft_eq]

end Sys2Proof.Machine
end

section
/-! The index register and the random byte (46_family_9_A_B_C.md R111, R113; 49_family_F_misc.md R129, R130): each is one
write, with that write's frame; the index values are sums and products of 16 bits. -/

namespace Sys2Proof.Machine

/-! ### Index (R111, R129, R130) -/

/-- FX1E adds modulo 65536 (R129). -/
theorem State.add_regWord_toNat (s : State) (w : Word) (x : Reg) :
    (w + s.regWord x).toNat = (w.toNat + (s.reg x).toNat) % 65536 := by
  rw [BitVec.toNat_add, State.regWord_toNat]

/-- The address of a glyph is the exact product: at most 255 * 5, so 16 bits hold it (R130). -/
theorem State.regWord_mul_five_toNat (s : State) (x : Reg) : (s.regWord x * 5).toNat = (s.reg x).toNat * 5 := by
  have hprod : (s.reg x).toNat * 5 < 2 ^ 16 := by omega
  rw [BitVec.toNat_mul, State.regWord_toNat]
  exact Nat.mod_eq_of_lt hprod

/-- Settles O27: each is one write of I, with that write's frame; the values are the numbers of the operands. -/
theorem indexResults : Obligations.IndexResults := by
  unfold Obligations.IndexResults
  refine ⟨decodesTo_LD_I, decodesTo_ADD_I, decodesTo_LD_F, fun nnn x s => ⟨?_, ?_, ?_⟩⟩
  · exact ⟨_, rfl, addrOperand_toNat nnn, rfl, respected_setI s _⟩
  · exact ⟨_, rfl, s.add_regWord_toNat s.i x, rfl, respected_setI s _⟩
  · exact ⟨_, rfl, s.regWord_mul_five_toNat x, rfl, respected_setI s _⟩

/-! ### Random byte (R113) -/

/-- Settles O28: VX reads back the masked random byte, bit by bit. -/
theorem randomByteResult : Obligations.RandomByteResult := by
  unfold Obligations.RandomByteResult
  refine ⟨decodesTo_RND, fun x nn s => ⟨s.setReg x (s.inputs.rnd &&& nn), rfl, fun k _ => ?_, rfl,
    respected_setReg s x _⟩⟩
  rw [State.setReg_reg_self, BitVec.getLsbD_and]

end Sys2Proof.Machine
end

section
/-! The sprite draw (47_family_D_draw.md R115, R116): the canvas a draw ends with is flipped exactly where the sprite
has a set bit over the grid, so that a second draw of the same sprite undoes the first. -/

namespace Sys2Proof.Machine

/-! ### The canvas of one draw -/

/-- What DXYN in range ends with, from the framebuffer and no collision yet. -/
def State.drawn (s : State) (x y : Reg) (n : BitVec 4) : Canvas :=
  drawRows (s.originX x) (s.originY y) (s.loadBytes s.dataBase n.toNat) { fb := s.fb, hit := false }

theorem execDrw_of_inMemory {x y : Reg} {n : BitVec 4} {s : State} (h : inMemory s.dataBase n.toNat = true) :
    execDrw x y n s = .next ((s.setFb (s.drawn x y n).fb).setFlag (s.drawn x y n).hit) := if_pos h

theorem State.loadBytes_getD (s : State) (a : Nat) {n k : Nat} (h : k < n) :
    (s.loadBytes a n).getD k 0 = s.byteAt (a + k) := by
  have hk : k < (s.loadBytes a n).length := by rwa [State.loadBytes_length]
  rw [List.getD_eq_getElem _ _ hk, State.loadBytes_getElem]

/-- A sprite bit in the words of the draw: the bit of the loaded byte of its row. -/
theorem State.spriteBit_eq_loadBytes (s : State) (x y : Reg) (n : BitVec 4) (px py : Nat) :
    s.spriteBit x y n px py =
      (decide (s.originX x ≤ px ∧ px < s.originX x + 8 ∧ s.originY y ≤ py ∧ py < s.originY y + n.toNat) &&
        ((s.loadBytes s.dataBase n.toNat).getD (py - s.originY y) 0).getLsbD (7 - (px - s.originX x))) := by
  unfold State.spriteBit
  by_cases h : s.originX x ≤ px ∧ px < s.originX x + 8 ∧ s.originY y ≤ py ∧ py < s.originY y + n.toNat
  · rw [State.loadBytes_getD s _ (by omega), State.dataBase]
  · rw [decide_eq_false h, Bool.false_and, Bool.false_and]

theorem State.cell_of_lt (s : State) {px py : Nat} (hx : px < 64) (hy : py < 32) :
    s.cell px py = s.fb.getLsbD (py * 64 + px) := by
  simp [State.cell, hx, hy]

theorem State.drawn_getLsbD (s : State) (x y : Reg) (n : BitVec 4) {px py : Nat} (hx : px < 64) (hy : py < 32) :
    (s.drawn x y n).fb.getLsbD (py * 64 + px) = (s.cell px py != s.spriteBit x y n px py) := by
  rw [State.drawn, drawRows_cell _ _ _ _ hx hy, State.loadBytes_length, ← State.spriteBit_eq_loadBytes,
    State.cell_of_lt s hx hy]

/-- A collision is a cell of the grid that was on under a set sprite bit. The draw counts it by sprite row and column,
the statement by grid column and row. -/
theorem State.drawn_hit (s : State) (x y : Reg) (n : BitVec 4) :
    (s.drawn x y n).hit = true ↔
      ∃ px py : Nat, px < 64 ∧ py < 32 ∧ s.spriteBit x y n px py = true ∧ s.cell px py = true := by
  rw [State.drawn, drawRows_hit, State.loadBytes_length]
  constructor
  · rintro (h | ⟨row, col, hrow, hcol, hbit, hx, hy, hcell⟩)
    · cases h
    · have hx' : s.originX x + col < 64 := by omega
      have hy' : s.originY y + row < 32 := by omega
      refine ⟨s.originX x + col, s.originY y + row, hx', hy', ?_, by rwa [State.cell_of_lt s hx' hy']⟩
      rw [State.spriteBit_eq_loadBytes, Nat.add_sub_cancel_left, Nat.add_sub_cancel_left, hbit,
        decide_eq_true (by omega), Bool.true_and]
  · rintro ⟨px, py, hx, hy, hbit, hcell⟩
    rw [State.spriteBit_eq_loadBytes, Bool.and_eq_true, decide_eq_true_eq] at hbit
    obtain ⟨⟨hx0, hx8, hy0, hyn⟩, hbit⟩ := hbit
    refine .inr ⟨py - s.originY y, px - s.originX x, by omega, by omega, hbit, by omega, by omega, ?_⟩
    rwa [Nat.add_sub_of_le hx0, Nat.add_sub_of_le hy0, ← State.cell_of_lt s hx hy]

/-! ### One draw (R115) -/

theorem flagByte_eq_zero_or_one (f : Bool) : flagByte f = 0 ∨ flagByte f = 1 := by
  cases f <;> simp [flagByte]

theorem flagByte_eq_one_iff (f : Bool) : flagByte f = 1 ↔ f = true := by
  cases f <;> simp [flagByte]

/-- Settles O36: in range the draw leaves its canvas as framebuffer and its collision mark as VF, out of range it enters
the fault. -/
theorem drawResult : Obligations.DrawResult := by
  unfold Obligations.DrawResult
  refine ⟨decodesTo_DRW, fun x y n s => ⟨fun hrange => ?_, fun hn hout => ?_⟩⟩
  · have hm : inMemory s.dataBase n.toNat = true :=
      (inMemory_iff _ _).mpr (by rw [State.dataBase]; omega)
    refine ⟨_, execDrw_of_inMemory hm, fun px py hx hy => ?_, ?_, ?_, rfl, respected_setFb_setFlag s _ _⟩
    · rw [State.cell_of_lt _ hx hy]
      exact s.drawn_getLsbD x y n hx hy
    · rw [State.setFlag_reg, if_pos rfl]
      exact flagByte_eq_zero_or_one _
    · rw [State.setFlag_reg, if_pos rfl, flagByte_eq_one_iff, State.drawn_hit]
  · have hn' : n ≠ 0 := BitVec.toNat_ne_iff_ne.mp (Nat.pos_iff_ne_zero.mp hn)
    exact instructionFaultsChangeOnlyTheLatch (.DRW x y n) s _ (if_pos ⟨hn', hout⟩)

/-! ### Two draws (R116) -/

/-- The framebuffer is its cells. -/
theorem State.fb_eq_of_cell_eq {s t : State}
    (h : ∀ px py : Nat, px < 64 → py < 32 → t.cell px py = s.cell px py) : t.fb = s.fb := by
  refine BitVec.eq_of_getLsbD_eq fun k hk => ?_
  have hx : k % 64 < 64 := Nat.mod_lt _ (by decide)
  have hy : k / 64 < 32 := by omega
  have hcell := h (k % 64) (k / 64) hx hy
  rwa [State.cell_of_lt t hx hy, State.cell_of_lt s hx hy, Nat.div_add_mod' k 64] at hcell

/-- A sprite bit depends on the origin, on I and on the sprite's bytes alone. -/
theorem State.spriteBit_congr {s u : State} {x y : Reg} {n : BitVec 4} (hi : u.i = s.i) (hx : u.reg x = s.reg x)
    (hy : u.reg y = s.reg y)
    (hbytes : ∀ a : Nat, s.i.toNat ≤ a → a < s.i.toNat + n.toNat → u.byteAt a = s.byteAt a) (px py : Nat) :
    u.spriteBit x y n px py = s.spriteBit x y n px py := by
  have hox : u.originX x = s.originX x := by rw [State.originX, State.originX, hx]
  have hoy : u.originY y = s.originY y := by rw [State.originY, State.originY, hy]
  rw [State.spriteBit, State.spriteBit, hox, hoy, hi]
  by_cases h : s.originX x ≤ px ∧ px < s.originX x + 8 ∧ s.originY y ≤ py ∧ py < s.originY y + n.toNat
  · rw [hbytes _ (by omega) (by omega)]
  · rw [decide_eq_false h, Bool.false_and, Bool.false_and]

/-- Settles O37: both draws flip the same cells, and where the sprite has a set bit the second finds what the first
flipped. -/
theorem drawTwiceRestoresFramebuffer : Obligations.DrawTwiceRestoresFramebuffer := by
  unfold Obligations.DrawTwiceRestoresFramebuffer
  intro x y n s t u hrange ht hfb hi hx hy hbytes
  obtain ⟨-, hdraw⟩ := drawResult
  obtain ⟨hfirst, -⟩ := hdraw x y n s
  obtain ⟨hsecond, -⟩ := hdraw x y n u
  obtain ⟨t', ht', hcell, -⟩ := hfirst hrange
  obtain rfl : t = t' := Host.Outcome.next.inj (ht.symm.trans ht')
  obtain ⟨w, hw, hcell', -, hVF, -⟩ := hsecond (by rwa [hi])
  have hbit (px py : Nat) : u.spriteBit x y n px py = s.spriteBit x y n px py :=
    State.spriteBit_congr hi hx hy hbytes px py
  have hu (px py : Nat) (hpx : px < 64) (hpy : py < 32) :
      u.cell px py = (s.cell px py != s.spriteBit x y n px py) := by
    rw [← hcell px py hpx hpy, State.cell, State.cell, hfb]
  refine ⟨w, hw, State.fb_eq_of_cell_eq fun px py hpx hpy => ?_, hVF.trans ?_⟩
  · rw [hcell' px py hpx hpy, hu px py hpx hpy, hbit, Bool.bne_assoc, bne_self_eq_false, Bool.bne_false]
  · refine exists_congr fun px => exists_congr fun py => and_congr_right fun hpx => and_congr_right fun hpy => ?_
    rw [hbit, hu px py hpx hpy]
    refine and_congr_right fun hset => ?_
    rw [hset, Bool.bne_true, Bool.not_eq_true']

end Sys2Proof.Machine
end

section
/-! Keys and timers (48_family_E_keys.md R120, R121; 49_family_F_misc.md R125 to R128): the skips on a key, the key
wait, and the moves between a register and a timer. -/

namespace Sys2Proof.Machine

/-! ### Skips on a key (R120, R121) -/

/-- Settles O20: with VX in range each ends in a skip, whose test is the level of key VX; else it enters the fault. -/
theorem keySkipResults : Obligations.KeySkipResults := by
  unfold Obligations.KeySkipResults
  refine ⟨decodesTo_SKP, decodesTo_SKNP, fun x s => ⟨fun hle => ?_, fun hgt => ?_⟩⟩
  · have hin : ¬ (s.reg x).toNat > 15 := Nat.not_lt.mpr hle
    exact ⟨skipIf_result (if_neg hin) Iff.rfl, skipIf_result (if_neg hin) (Iff.of_eq (Bool.not_eq_true' _))⟩
  · exact ⟨instructionFaultsChangeOnlyTheLatch (.SKP x) s _ (if_pos hgt),
      instructionFaultsChangeOnlyTheLatch (.SKNP x) s _ (if_pos hgt)⟩

/-! ### The key wait (R126) -/

theorem State.lowestKey_of_least {s : State} {k : Reg} (hk : s.keyDown k.val = true)
    (hbelow : ∀ j : Reg, j < k → s.keyDown j.val = false) : s.lowestKey = some k := by
  obtain ⟨-, hnone⟩ | ⟨l, hl, hdown, hbelow'⟩ := s.lowestKey_cases
  · exact absurd hk (by simp [hnone k])
  · rw [hl]
    rcases lt_trichotomy l k with hlt | rfl | hgt
    · exact absurd hdown (by simp [hbelow l hlt])
    · rfl
    · exact absurd hk (by simp [hbelow' k hgt])

theorem State.lowestKey_of_none {s : State} (hnone : ∀ k : Reg, s.keyDown k.val = false) : s.lowestKey = none := by
  obtain ⟨h, -⟩ | ⟨k, -, hdown, -⟩ := s.lowestKey_cases
  · exact h
  · exact absurd hdown (by simp [hnone k])

theorem execLdVxK_of_least {x k : Reg} {s : State} (hk : s.keyDown k.val = true)
    (hbelow : ∀ j : Reg, j < k → s.keyDown j.val = false) :
    execLdVxK x s = .next (s.setReg x (BitVec.ofNat 8 k.val)) := by
  rw [execLdVxK, State.lowestKey_of_least hk hbelow]

theorem execLdVxK_of_none {x : Reg} {s : State} (hnone : ∀ k : Reg, s.keyDown k.val = false) :
    execLdVxK x s = .next s.rewind := by
  rw [execLdVxK, State.lowestKey_of_none hnone]

theorem State.advance_rewind (s : State) : s.advance.rewind = s := by
  have hpc : s.pc + 2 - 2 = s.pc := BitVec.add_sub_cancel _ _
  rw [State.rewind, State.advance_pc, hpc]
  rfl

/-- Settles O30: the scan answers the least pressed key, and with none pressed the wait takes back the advance. -/
theorem keyWaitResult : Obligations.KeyWaitResult := by
  unfold Obligations.KeyWaitResult
  refine ⟨decodesTo_LD_Vx_K, fun x s => ⟨fun k hk hbelow => ?_, fun hnone => ⟨execLdVxK_of_none hnone, ?_⟩⟩⟩
  · refine ⟨_, execLdVxK_of_least hk hbelow, ?_, rfl, respected_setReg s x _⟩
    rw [State.setReg_reg_self, BitVec.toNat_ofNat, Nat.mod_eq_of_lt (by omega)]
  · intro hl hf hpc hdec
    have hexec : exec (.LD_Vx_K x) s.advance = .next s.advance.rewind := execLdVxK_of_none hnone
    refine ⟨s.nextInputs, ?_, rfl⟩
    rw [stepRunsDecodedInstruction s _ hl hf hpc hdec, hexec, State.advance_rewind, mapNext_next]

/-! ### Timers (R125, R127, R128) -/

/-- Settles O29: each is one write, with that write's frame, and the sound signal is ST > 0. -/
theorem timerResults : Obligations.TimerResults := by
  unfold Obligations.TimerResults
  refine ⟨decodesTo_LD_Vx_DT, decodesTo_LD_DT_Vx, decodesTo_LD_ST_Vx, fun x s => ⟨?_, ?_, ?_⟩⟩
  · exact ⟨s.setReg x s.dt, rfl, s.setReg_reg_self x s.dt, rfl, respected_setReg s x _⟩
  · exact ⟨s.setDt (s.reg x), rfl, rfl, rfl, respected_setDt s _⟩
  · refine ⟨s.setSt (s.reg x), rfl, rfl, ?_, rfl, respected_setSt s _⟩
    rw [State.soundOn_iff, State.setSt_st, Nat.pos_iff_ne_zero]

end Sys2Proof.Machine
end

section
/-! Memory transfer (49_family_F_misc.md R131 to R133): the decimal digits, and the store and the load of a block of
registers. -/

namespace Sys2Proof.Machine

/-! ### Decimal digits (R131) -/

theorem State.storeBytes_byteAt_add (s : State) (a : Nat) {bs : List Byte} {k : Nat} (h : k < bs.length) :
    (s.storeBytes a bs).byteAt (a + k) = bs[k] := by
  rw [State.storeBytes_byteAt, dif_pos (by omega)]
  simp only [Nat.add_sub_cancel_left]

theorem execLdB_of_le {x : Reg} {s : State} (h : s.i.toNat + 2 ≤ 4095) :
    execLdB x s = .next (s.storeBytes s.i.toNat (bcdDigits (s.reg x))) :=
  if_pos ((inMemory_iff _ _).mpr (.inr (by rw [State.dataBase]; omega)))

/-- A digit fits in its byte. -/
theorem bcdDigits_toNat (b : Byte) : (bcdDigits b).map BitVec.toNat =
    [b.toNat / 100, b.toNat / 10 % 10, b.toNat % 10] := by
  have hundreds : b.toNat / 100 < 2 ^ 8 := by omega
  have tens : b.toNat / 10 % 10 < 2 ^ 8 := by omega
  have ones : b.toNat % 10 < 2 ^ 8 := by omega
  simp only [bcdDigits, List.map_cons, List.map_nil, BitVec.toNat_ofNat, Nat.mod_eq_of_lt, hundreds, tens, ones]

/-- Settles O31: in range the three digits are stored from I on, out of range the fault is entered. -/
theorem decimalStoreResult : Obligations.DecimalStoreResult := by
  unfold Obligations.DecimalStoreResult
  refine ⟨decodesTo_LD_B, fun x s => ⟨fun hle => ?_, fun hgt => ?_⟩⟩
  · have hbyte (k : Nat) (hk : k < 3) : ((s.storeBytes s.i.toNat (bcdDigits (s.reg x))).byteAt (s.i.toNat + k)).toNat =
        [(s.reg x).toNat / 100, (s.reg x).toNat / 10 % 10, (s.reg x).toNat % 10][k] := by
      rw [State.storeBytes_byteAt_add s _ (by rwa [bcdDigits_length])]
      simp only [← bcdDigits_toNat, List.getElem_map]
    exact ⟨_, execLdB_of_le hle, hbyte 0 (by decide), hbyte 1 (by decide), hbyte 2 (by decide), rfl,
      respected_storeBytes s _ _ _ rfl⟩
  · exact instructionFaultsChangeOnlyTheLatch (.LD_B x) s _ (if_pos hgt)

/-! ### Register blocks (R132, R133) -/

/-- Settles O32: in range the block of registers is stored from I on, out of range the fault is entered. -/
theorem registerStoreResult : Obligations.RegisterStoreResult := by
  unfold Obligations.RegisterStoreResult
  refine ⟨decodesTo_LD_mem_Vx, fun x s => ⟨fun hle => ?_, fun hgt => ?_⟩⟩
  · exact ⟨_, execLdMemVx_of_le hle, fun k hk => s.storeBytes_regBlock_byteAt _ hk, rfl,
      respected_storeBytes s _ _ _ (s.regBlock_length x)⟩
  · exact instructionFaultsChangeOnlyTheLatch (.LD_mem_Vx x) s _ (if_pos hgt)

/-- FX65 in range loads the block of registers from the address in I on (R133). -/
theorem execLdVxMem_of_le {x : Reg} {s : State} (h : s.i.toNat + x.val ≤ 4095) :
    execLdVxMem x s = .next (s.setRegs 0 (s.loadBytes s.i.toNat (x.val + 1))) :=
  if_pos ((inMemory_iff _ _).mpr (.inr (by rw [State.dataBase]; omega)))

/-- A register of a loaded block takes its byte of memory. -/
theorem State.setRegs_loadBytes_reg (s : State) (a : Nat) {x k : Reg} (hk : k ≤ x) :
    (s.setRegs 0 (s.loadBytes a (x.val + 1))).reg k = s.byteAt (a + k.val) := by
  rw [Fin.le_def] at hk
  have hlen : (s.loadBytes a (x.val + 1)).length = x.val + 1 := s.loadBytes_length a _
  rw [State.setRegs_reg _ _ _ (by omega), dif_pos (by omega), State.loadBytes_getElem, Nat.sub_zero]

/-- Settles O33: in range the block of registers is loaded from I on, out of range the fault is entered. -/
theorem registerLoadResult : Obligations.RegisterLoadResult := by
  unfold Obligations.RegisterLoadResult
  refine ⟨decodesTo_LD_Vx_mem, fun x s => ⟨fun hle => ?_, fun hgt => ?_⟩⟩
  · exact ⟨_, execLdVxMem_of_le hle, fun k hk => s.setRegs_loadBytes_reg _ hk, by rw [State.setRegs_eq_v],
      respected_setRegs s x _ (s.loadBytes_length _ _)⟩
  · exact instructionFaultsChangeOnlyTheLatch (.LD_Vx_mem x) s _ (if_pos hgt)

/-- Settles O34: the load reads the bytes the store wrote. -/
theorem storeThenLoadRoundTrip : Obligations.StoreThenLoadRoundTrip := by
  unfold Obligations.StoreThenLoadRoundTrip
  intro x s t u hrange ht hi hbytes
  obtain rfl : s.storeBytes s.i.toNat (s.regBlock x) = t :=
    Host.Outcome.next.inj ((execLdMemVx_of_le hrange).symm.trans ht)
  refine ⟨_, execLdVxMem_of_le (by rwa [hi]), fun k hk => ?_⟩
  have hkval : k.val ≤ x.val := hk
  rw [State.setRegs_loadBytes_reg u _ hk, hi, hbytes _ (by omega) (by omega), State.storeBytes_regBlock_byteAt s _ hk]

end Sys2Proof.Machine
end

section
/-! The fault table along a STEP (60_exceptions.md R140, R145): its conditions are those of the state the STEP starts
from. -/

namespace Sys2Proof.Machine

/-- No fault condition of an instruction reads pc, so it holds before the advance exactly when it holds after. -/
theorem faultOf_advance (i : Instr) (s : State) : faultOf i s.advance = faultOf i s := by
  cases i <;> rfl

/-- From a clear latch an instruction leaves the fault its condition names, or none. -/
theorem exec_fault_eq_faultOf {i : Instr} {s t : State} (hclear : s.fault = none) (h : exec i s = .next t) :
    t.fault = faultOf i s := by
  cases hf : faultOf i s with
  | none =>
    obtain ⟨u, hu, hkept, -⟩ := writeMatrixHolds i s hf
    obtain rfl : t = u := Host.Outcome.next.inj (h.symm.trans hu)
    exact hkept.trans hclear
  | some r =>
    obtain rfl := Host.Outcome.next.inj ((exec_of_faultOf_eq_some hf).symm.trans h)
    rfl

/-- Settles O9: by the stages of the STEP, an ignored one changes nothing, a fetch out of range latches FETCH_OOB, and
any other runs its instruction from a clear latch. -/
theorem faultConditionsAreExact : Obligations.FaultConditionsAreExact := by
  unfold Obligations.FaultConditionsAreExact
  refine ⟨⟨rfl, rfl, rfl, rfl, rfl⟩, fun s => ?_⟩
  obtain ⟨t, ht⟩ := step_eq_next s
  refine ⟨t, ht, fun hg => ?_, fun hl hf => ⟨fun hpc => ?_, fun i hpc hdec => ?_⟩⟩
  · exact Host.Outcome.next.inj (ht.symm.trans (step_of_gated (State.gated_eq_true.mpr hg)))
  · have hg : s.gated = false := State.gated_eq_false.mpr ⟨hl, hf⟩
    obtain rfl := Host.Outcome.next.inj ((step_of_fetch_none hg (State.fetch_of_gt hpc)).symm.trans ht)
    rfl
  · obtain ⟨u, hu, rfl⟩ := mapNext_eq_next ((stepRunsDecodedInstruction s i hl hf hpc hdec).symm.trans ht)
    have hlatch : u.fault = faultOf i s.advance := exec_fault_eq_faultOf hf hu
    rw [State.nextInputs_fault, hlatch, faultOf_advance]

end Sys2Proof.Machine
end

section
/-! The transactions of the host: TICK (60_exceptions.md R150, R151), LOAD (70_reset_and_hazards.md R172, R173), a STEP
of a parked state (R180) and the boot sequence (R174). -/

namespace Sys2Proof.Machine

/-! ### TICK (R150, R151) -/

/-- Settles O45: a TICK lowers each timer by its own step and writes nothing else. -/
theorem tickDecrementsBothTimers : Obligations.TickDecrementsBothTimers := by
  unfold Obligations.TickDecrementsBothTimers
  exact fun s => ⟨s.applyTick, rfl, tickTimer_toNat s.dt, tickTimer_toNat s.st, rfl⟩

/-- Settles O46, by induction on the number of TICKs. -/
theorem timersRunDownByTicks : Obligations.TimersRunDownByTicks := by
  unfold Obligations.TimersRunDownByTicks
  intro n
  induction n with
  | zero => exact fun s => ⟨s, rfl, rfl, rfl, rfl⟩
  | succ n ih =>
    intro s
    obtain ⟨u, hu, hudt, hust, hueq⟩ := tickDecrementsBothTimers s
    obtain ⟨t, ht, htdt, htst, hteq⟩ := ih u
    refine ⟨t, ?_, by omega, by omega, ?_⟩
    · rw [List.replicate_succ, runSchedule_cons hu, ht]
    · rw [hteq, hueq]

/-! ### LOAD (R172, R173) -/

theorem State.applyLoad_of_le (s : State) {bytes : List Byte} (h : bytes.length ≤ maxRomLength) :
    s.applyLoad (some bytes) = ({ s.storeBytes 0x200 bytes with loaded := true }, true) := if_pos h

theorem State.applyLoad_of_gt (s : State) {bytes : List Byte} (h : maxRomLength < bytes.length) :
    s.applyLoad (some bytes) = (s, false) := if_neg (Nat.not_le.mpr h)

/-- Settles O43: the LOAD stores the bytes from 0x200 on and sets LOADED. -/
theorem loadSucceeds : Obligations.LoadSucceeds := by
  unfold Obligations.LoadSucceeds
  intro bytes s hlen
  have hload := s.applyLoad_of_le hlen
  refine ⟨_, by rw [transact, hload], hload, fun k hk => ?_, fun a ha => ?_, rfl, rfl⟩
  · exact s.storeBytes_byteAt_add 0x200 hk
  · exact (s.storeBytes_byteAt 0x200 bytes a).trans (dif_neg ha)

/-- Settles O44: a LOAD that is refused answers the state it was given. -/
theorem loadFailureChangesNothing : Obligations.LoadFailureChangesNothing := by
  unfold Obligations.LoadFailureChangesNothing
  refine fun s => ⟨⟨rfl, rfl⟩, fun bytes hlen => ?_⟩
  have hload := s.applyLoad_of_gt hlen
  exact ⟨by rw [transact, hload], hload⟩

/-! ### A served STEP of the host -/

/-- A STEP of a loaded, unfaulted core runs the word at pc, with the inputs the host drives. -/
theorem transact_step_of_pc_le {s : State} (keys : BitVec 16) (rnd : Byte) (hl : s.loaded = true)
    (hf : s.fault = none) (hpc : s.pc.toNat ≤ 4094) :
    transact (.step keys rnd) s = mapNext State.nextInputs
      (exec (decodeWord s.cfg (wordOfBytes (s.byteAt s.pc.toNat) (s.byteAt (s.pc.toNat + 1))))
        (s.withInputs keys rnd).advance) :=
  step_of_pc_le (s := s.withInputs keys rnd) (State.gated_eq_false.mpr ⟨hl, hf⟩) hpc

/-! ### The parked state (R180) -/

/-- The word at a parked pc = a is 1NNN with NNN = a, so it jumps to itself. -/
theorem State.parked_decodes {s : State} (h : s.parked) :
    ∃ nnn : BitVec 12, addrOperand nnn = s.pc ∧
      decodeWord s.cfg (wordOfBytes (s.byteAt s.pc.toNat) (s.byteAt (s.pc.toNat + 1))) = .JP nnn := by
  obtain ⟨-, -, hpc, hhi, hlo⟩ := h
  have hword := wordOfBytes_toNat (s.byteAt s.pc.toNat) (s.byteAt (s.pc.toNat + 1))
  rw [hhi, hlo] at hword
  generalize wordOfBytes (s.byteAt s.pc.toNat) (s.byteAt (s.pc.toNat + 1)) = op at hword
  refine ⟨fieldNNN op, ?_, decodeWord_of_family1 ?_⟩
  · apply BitVec.eq_of_toNat_eq
    rw [addrOperand_toNat, fieldNNN, BitVec.extractLsb'_toNat]
    omega
  · apply BitVec.eq_of_toNat_eq
    rw [fieldFamily, BitVec.extractLsb'_toNat, Nat.shiftRight_eq_div_pow, hword]
    show _ = 1
    omega

/-- Being parked does not depend on the inputs. -/
theorem State.parked.with_inputs {s : State} (h : s.parked) (n : Inputs) : State.parked { s with inputs := n } := h

/-- Settles O50: the STEP jumps to the address it fetched from, so only the inputs change. -/
theorem parkedIsFixedPointOfStep : Obligations.ParkedIsFixedPointOfStep := by
  unfold Obligations.ParkedIsFixedPointOfStep
  intro s keys rnd hparked
  obtain ⟨nnn, haddr, hdec⟩ := State.parked_decodes hparked
  have hstep : transact (.step keys rnd) s =
      .next { s with inputs := (s.withInputs keys rnd).inputs.refresh } := by
    obtain ⟨hl, hf, hpc, -, -⟩ := hparked
    rw [transact_step_of_pc_le keys rnd hl hf hpc, hdec, exec, execJp, haddr]
    rfl
  exact ⟨_, hstep, rfl, hparked.with_inputs _⟩

/-! ### The boot sequence (R174) -/

/-- Settles O51: the STEP after the LOAD fetches from 0x200 the first two bytes of the image. -/
theorem bootRunsFirstTwoBytes : Obligations.BootRunsFirstTwoBytes := by
  unfold Obligations.BootRunsFirstTwoBytes
  intro hi lo image s hlen
  obtain ⟨t, ht, -, hbyte, -, hloaded, heq⟩ := loadSucceeds (hi :: lo :: image) s.applyReset hlen
  have hrun : runSchedule (boot (hi :: lo :: image)) s = .next t := by
    rw [boot, runSchedule_cons (u := s.applyReset) rfl, runSchedule_cons ht, runSchedule]
  refine ⟨t, hrun, fun keys rnd op hop => ?_⟩
  have hpc : t.pc = 0x200 := by rw [heq]; rfl
  have hfault : t.fault = none := by rw [heq]; rfl
  have hcfg : t.cfg = s.cfg := parametersNeverChange _ s t hrun
  have hhi : t.byteAt t.pc.toNat = hi := by rw [hpc]; exact hbyte 0 (by simp)
  have hlo : t.byteAt (t.pc.toNat + 1) = lo := by rw [hpc]; exact hbyte 1 (by simp)
  have hword : wordOfBytes hi lo = op := BitVec.eq_of_toNat_eq ((wordOfBytes_toNat hi lo).trans hop.symm)
  have hadvance : (t.withInputs keys rnd).advance = { t.withInputs keys rnd with pc := 0x202 } := by
    rw [State.advance, State.withInputs_pc, hpc]
    rfl
  rw [transact_step_of_pc_le keys rnd hloaded hfault (by rw [hpc]; decide), hhi, hlo, hword, hcfg, hadvance]

end Sys2Proof.Machine
end
